-- ==== Sys2Proof/Word.lean ====
section
/-! DEFINITION. The word and byte types of the P4 (00_scope.md R8, R11, R12). -/

namespace Sys2Proof

/-- A 16-bit word: the width of a register, a data word and a program word (00_scope.md R8). -/
abbrev Word := BitVec 16

/-- An octet: bits 15 to 8 or bits 7 to 0 of a word (00_scope.md R17). -/
abbrev Byte := BitVec 8

end Sys2Proof
end

