-- ==== Sys2Proof/Syntax.lean ====
section
/-! DEFINITION. The instruction terms of the P4 (00_scope.md R7, R3; 30_encoding.md R83): one constructor for
each row of spec/opcode_table.json. -/

namespace Sys2Proof

/-- The general registers R0 to R7 (10_state.md R21). -/
inductive Reg where
  | r0 | r1 | r2 | r3 | r4 | r5 | r6 | r7
deriving DecidableEq, Repr

/-- The ten conditions of 43_control.md R200. -/
inductive Cond where
  | z | nz | n | nn | p | np | c | nc | o | no
deriving DecidableEq, Repr

/-- An instruction term. Constants stand as the field that an encoding carries: an 8-bit displacement or
constant has every value legal, the 9-bit constant of MVI has the reserved range that WellFormed.lean
excludes (30_encoding.md R83, R84, R94). -/
inductive Instr where
  -- Format Z (30_encoding.md R88): no operand.
  | nop
  | eni
  | dsi
  | stc
  | clc
  | cmc
  | rti
  -- Format K (R89): the constant 0 to 255.
  | int (k : BitVec 8)
  -- Format R3 (R90): op1 is written, op2 and op3 are read.
  | add (op1 op2 op3 : Reg)
  | addc (op1 op2 op3 : Reg)
  | sub (op1 op2 op3 : Reg)
  | subb (op1 op2 op3 : Reg)
  | and (op1 op2 op3 : Reg)
  | or (op1 op2 op3 : Reg)
  | xor (op1 op2 op3 : Reg)
  -- Format R2 (R91): both are read.
  | cmp (op1 op2 : Reg)
  | test (op1 op2 : Reg)
  -- Format R1 (R92): op is read and written.
  | neg (op : Reg)
  | inc (op : Reg)
  | dec (op : Reg)
  | com (op : Reg)
  | shr (op : Reg)
  | shl (op : Reg)
  | shra (op : Reg)
  | shla (op : Reg)
  | ror (op : Reg)
  | rol (op : Reg)
  | rorc (op : Reg)
  | rolc (op : Reg)
  -- Format T (R93): LOAD op1, M[Rx]; STOR M[Rx], op2.
  | mov (op1 op2 : Reg)
  | load (op1 rx : Reg)
  | stor (rx op2 : Reg)
  -- Formats I9 and I8 (R94, R95): a 9-bit two's-complement constant; the byte `c mod 256`.
  | mvi (op1 : Reg) (c : BitVec 9)
  | mvih (op1 : Reg) (b : BitVec 8)
  | mvil (op1 : Reg) (b : BitVec 8)
  -- Format B (R96): a condition in the mnemonic and an 8-bit displacement.
  | br (d : BitVec 8)
  | brZ (d : BitVec 8)
  | brNZ (d : BitVec 8)
  | brN (d : BitVec 8)
  | brNN (d : BitVec 8)
  | brP (d : BitVec 8)
  | brNP (d : BitVec 8)
  | brC (d : BitVec 8)
  | brNC (d : BitVec 8)
  | brO (d : BitVec 8)
  | brNO (d : BitVec 8)
  -- Format J (R97): a condition in the mnemonic and the register that holds the target.
  | jmp (r : Reg)
  | jmpZ (r : Reg)
  | jmpNZ (r : Reg)
  | jmpN (r : Reg)
  | jmpNN (r : Reg)
  | jmpP (r : Reg)
  | jmpNP (r : Reg)
  | jmpC (r : Reg)
  | jmpNC (r : Reg)
  | jmpO (r : Reg)
  | jmpNO (r : Reg)
  -- Format J (R97), the link goes to R7.
  | jal (r : Reg)
  | jalZ (r : Reg)
  | jalNZ (r : Reg)
  | jalN (r : Reg)
  | jalNN (r : Reg)
  | jalP (r : Reg)
  | jalNP (r : Reg)
  | jalC (r : Reg)
  | jalNC (r : Reg)
  | jalO (r : Reg)
  | jalNO (r : Reg)
deriving DecidableEq, Repr

end Sys2Proof
end

