-- ==== Sys2Proof/Config.lean ====
section
/-! DEFINITION. What the spec leaves open: the free values (opaque, no body) and the types of the
parameters of 00_scope.md R9. The parameters themselves are data in State (log 46), so that a statement
about every state holds for each of their settings. -/

namespace Sys2Proof.Config

/-! ### Free values -/

/-- The octet of data memory at byte cell `a` that nothing has written
(20_memory.md R68, U6; log 24). A function of the cell alone, so it is stable until written. -/
opaque uninit : Nat → Byte

/-- What the `n`-th free read of an undescribed or write-only port returns
(61_io_devices.md R339, U4, the laxer instance; log 22). -/
opaque portRead : Nat → Word

/-- Z after the `n`-th interrupt entry (ENTRY_FLAGS, 60_exceptions.md R268, U7; log 17). -/
opaque entryZ : Nat → Bool

/-- C after the `n`-th interrupt entry (ENTRY_FLAGS, 60_exceptions.md R268, U7; log 17). -/
opaque entryC : Nat → Bool

/-- N after the `n`-th interrupt entry (ENTRY_FLAGS, 60_exceptions.md R268, U7; log 17). -/
opaque entryN : Nat → Bool

/-- O after the `n`-th interrupt entry (ENTRY_FLAGS, 60_exceptions.md R268, U7; log 17). -/
opaque entryO : Nat → Bool

/-- The choice among several takeable requests (IRQ_PRIORITY, 60_exceptions.md R272, U9; log 19),
read modulo their number. -/
opaque irqChoice : Nat → Nat

/-- Row of the terminal cursor after the `n`-th write that leaves it unspecified
(61_io_devices.md R306, U8; log 28). -/
opaque termRow : Nat → Nat

/-- Column of the terminal cursor after the `n`-th write that leaves it unspecified
(61_io_devices.md R306, U8; log 28). -/
opaque termCol : Nat → Nat

/-- Character, character colour and background colour of terminal cell `k` after the `n`-th write that
leaves the screen unspecified; `none` is a blank cell (61_io_devices.md R306, U8; log 28). -/
opaque termCell : Nat → Nat → Option (Byte × Byte × Byte)

/-- The clock periods of the `n`-th step of a simulation (93_implementation_defined.md U17; log 34). -/
opaque stepClocks : Nat → Nat

/-- The two character encodings of the assembler (35_assembler.md R114, R129). -/
inductive CharEncoding where
  | ascii     -- extended ASCII, Code Page 437
  | unicode
deriving DecidableEq, Repr

/-- The code of a character outside the ones the spec gives (35_assembler.md R114; the tables are out of
scope, 00_scope.md R6; log 41). -/
opaque charCode : CharEncoding → Char → Word

/-! ### Parameters (00_scope.md R9) -/

/-- SUB_CARRY: the meaning of C after a subtraction (40_arithmetic.md R151; log 9). -/
inductive SubCarry where
  | carryOut  -- C = 1 when no borrow occurred (default)
  | borrow    -- C = 1 when a borrow occurred
deriving DecidableEq, Repr

/-- SHRA_FILL: the bit SHRA shifts into position 15 (42_shift.md R183; log 10). -/
inductive ShraFill where
  | zero      -- default
  | sign
deriving DecidableEq, Repr

/-- LINK_OFFSET: what JAL adds to its own address (43_control.md R206; log 14). -/
inductive LinkOffset where
  | one       -- the delay slot
  | two       -- the instruction after the delay slot (default)
deriving DecidableEq, Repr

/-- IRQ_POLICY: the fate of a request raised while it cannot be taken (60_exceptions.md R273; log 18). -/
inductive IrqPolicy where
  | latch     -- remembered until taken (the deterministic instance)
  | drop      -- forgotten
deriving DecidableEq, Repr

/-- ENCODING: how a program word stands for an instruction (30_encoding.md R85; log 1, log 46). -/
inductive Encoding where
  | pe1                             -- PE-1, the spec's own (default)
  | table (rows : List (Word × Instr))  -- any other, given by its rows
deriving DecidableEq, Repr

/-- PC_WIDTH: the width of the program counter (10_state.md R24; log 4). -/
inductive PcWidth where
  | bits15
  | bits16    -- default
deriving DecidableEq, Repr

/-- The control instructions, each a possible member of DELAY_SLOT_SET (00_scope.md R9; log 13). -/
inductive ControlKind where
  | br | brCond | jmp | jmpCond | jal | jalCond | int | rti
deriving DecidableEq, Repr

/-- The default DELAY_SLOT_SET: BR, BR.cond, JMP, JMP.cond, JAL, JAL.cond (00_scope.md R9). -/
def jumpsOnly : List ControlKind := [.br, .brCond, .jmp, .jmpCond, .jal, .jalCond]

/-- The open parameters of one machine (00_scope.md R9). ENTRY_FLAGS, IRQ_PRIORITY and UNINIT are the free
values above; TIMER_TICK is the place of the ticks in the host's event stream; MVI_PAIR_ORDER is the assembler's. -/
structure Params where
  encoding : Encoding
  pcWidth : PcWidth
  /-- RESET_PC: pc after reset (10_state.md R26; log 5) -/
  resetPc : Word
  subCarry : SubCarry
  shraFill : ShraFill
  /-- DELAY_SLOT_SET: the instructions that have a delay slot (43_control.md R201; log 13) -/
  delaySlotSet : List ControlKind
  linkOffset : LinkOffset
  irqPolicy : IrqPolicy
deriving DecidableEq, Repr

/-- The defaults of 00_scope.md R9. -/
def Params.default : Params :=
  { encoding := .pe1
    pcWidth := .bits16
    resetPc := 0
    subCarry := .carryOut
    shraFill := .zero
    delaySlotSet := jumpsOnly
    linkOffset := .two
    irqPolicy := .latch }

/-- MVI_PAIR_ORDER: the order of the two instructions of a wide MVI (35_assembler.md R132; log 38). -/
inductive MviPairOrder where
  | highFirst -- MVIH, then MVIL (default)
  | lowFirst
deriving DecidableEq, Repr

/-- How many instructions an MVI of a symbol takes, which the spec does not fix (35_assembler.md R120,
44_transfer.md R237, 91_not_in_source.md N9; log 39). -/
inductive SymbolMvi where
  | pair      -- always the pair MVIH, MVIL
  | fitting   -- one instruction where the value fits it
deriving DecidableEq, Repr

/-- The open parameters of the assembler, and the two it shares with the machine it assembles for. -/
structure AsmParams where
  pairOrder : MviPairOrder
  symbolMvi : SymbolMvi
  encoding : Encoding
  delaySlotSet : List ControlKind
deriving DecidableEq, Repr

/-- The defaults of 00_scope.md R9, MVI_PAIR_ORDER among them: MVIH first (decision D25; log 38). The size of an MVI of
a symbol has no default in the spec (log 39). -/
def AsmParams.default (symbolMvi : SymbolMvi) : AsmParams :=
  { pairOrder := .highFirst
    symbolMvi := symbolMvi
    encoding := Params.default.encoding
    delaySlotSet := Params.default.delaySlotSet }

end Sys2Proof.Config
end

