-- ==== Sys2Proof/WellFormed.lean ====
section
/-! DEFINITION. Which instruction terms are legal (30_encoding.md R83, R94, R99). -/

namespace Sys2Proof

/-- The legal constants of the single-instruction MVI: -128 to 255, that is 000h to 0FFh and 180h to 1FFh
as a 9-bit field (30_encoding.md R94; 44_transfer.md R233). -/
def mviConstOk (c : BitVec 9) : Bool := decide (-128 ≤ c.toInt ∧ c.toInt ≤ 255)

/-- Every other operand type of `Instr` holds exactly the operands 30_encoding.md R83 gives it. -/
def Instr.wellFormed : Instr → Bool
  | .mvi _ c => mviConstOk c
  | .nop | .eni | .dsi | .stc | .clc | .cmc | .rti | .int _
  | .add _ _ _ | .addc _ _ _ | .sub _ _ _ | .subb _ _ _ | .and _ _ _ | .or _ _ _ | .xor _ _ _
  | .cmp _ _ | .test _ _
  | .neg _ | .inc _ | .dec _ | .com _ | .shr _ | .shl _ | .shra _ | .shla _ | .ror _ | .rol _ | .rorc _ | .rolc _
  | .mov _ _ | .load _ _ | .stor _ _ | .mvih _ _ | .mvil _ _
  | .br _ | .brZ _ | .brNZ _ | .brN _ | .brNN _ | .brP _ | .brNP _ | .brC _ | .brNC _ | .brO _ | .brNO _
  | .jmp _ | .jmpZ _ | .jmpNZ _ | .jmpN _ | .jmpNN _ | .jmpP _ | .jmpNP _ | .jmpC _ | .jmpNC _ | .jmpO _ | .jmpNO _
  | .jal _ | .jalZ _ | .jalNZ _ | .jalN _ | .jalNN _ | .jalP _ | .jalNP _ | .jalC _ | .jalNC _ | .jalO _ | .jalNO _ => true

end Sys2Proof
end

