-- ==== Sys2Proof/Decode.lean ====
section
/-! DEFINITION. The provisional encoding PE-1: decoder and encoder (30_encoding.md R86 to R102; log 1).
PE-1 is the spec's own encoding, not the real P4's. -/

namespace Sys2Proof

/-! ### Decoding -/

/-- Why a word is no instruction (30_encoding.md R99). -/
inductive DecodeReject where
  | reservedMajor      -- major opcode Ch to Fh
  | reservedFunction   -- a function value marked reserved
  | reservedCondition  -- a condition value marked reserved (R98)
  | mustBeZero         -- a must-be-zero field that is not zero
  | reservedConstant   -- an MVI constant in -256 to -129 (R94)
  | truncated          -- fewer than the two octets of a word
  | unassigned         -- a word that the table of an ENCODING other than PE-1 does not list
deriving DecidableEq, Repr

/-- The answer of the decoder: a term, or a rejection by name. -/
abbrev Decoded := Except DecodeReject Instr

/-- Bits `lo + n - 1` down to `lo` of a word (00_scope.md R11). -/
def field (w : Word) (lo n : Nat) : BitVec n := w.extractLsb' lo n

/-- The register that a 3-bit field names (30_encoding.md R102). -/
def Reg.ofBits (b : BitVec 3) : Reg :=
  match b.toNat with
  | 0 => .r0 | 1 => .r1 | 2 => .r2 | 3 => .r3 | 4 => .r4 | 5 => .r5 | 6 => .r6 | _ => .r7

/-- The register field of `w` whose lowest bit is `lo`. -/
def regField (w : Word) (lo : Nat) : Reg := Reg.ofBits (field w lo 3)

/-- The must-be-zero field of `n` bits at `lo`, before the rest of the word is read (30_encoding.md R102). -/
def ifZero (w : Word) (lo n : Nat) (r : Decoded) : Decoded :=
  if field w lo n = 0 then r else .error .mustBeZero

/-- Format Z (30_encoding.md R88). -/
def decodeZ (w : Word) : Decoded := ifZero w 4 8 <|
  match (field w 0 4).toNat with
  | 0 => .ok (.nop)
  | 1 => .ok (.eni)
  | 2 => .ok (.dsi)
  | 3 => .ok (.stc)
  | 4 => .ok (.clc)
  | 5 => .ok (.cmc)
  | 6 => .ok (.rti)
  | _ => .error .reservedFunction

/-- Format K (30_encoding.md R89). -/
def decodeK (w : Word) : Decoded := ifZero w 8 4 <| .ok (.int (field w 0 8))

/-- Format R3 (30_encoding.md R90). -/
def decodeR3 (w : Word) : Decoded :=
  let d := regField w 9
  let s := regField w 6
  let t := regField w 3
  match (field w 0 3).toNat with
  | 0 => .ok (.add d s t)
  | 1 => .ok (.addc d s t)
  | 2 => .ok (.sub d s t)
  | 3 => .ok (.subb d s t)
  | 4 => .ok (.and d s t)
  | 5 => .ok (.or d s t)
  | 6 => .ok (.xor d s t)
  | _ => .error .reservedFunction

/-- Format R2 (30_encoding.md R91). -/
def decodeR2 (w : Word) : Decoded := ifZero w 9 3 <|
  match (field w 0 3).toNat with
  | 0 => .ok (.cmp (regField w 6) (regField w 3))
  | 1 => .ok (.test (regField w 6) (regField w 3))
  | _ => .error .reservedFunction

/-- Format R1 (30_encoding.md R92). -/
def decodeR1 (w : Word) : Decoded := ifZero w 4 5 <|
  let r := regField w 9
  match (field w 0 4).toNat with
  | 0 => .ok (.neg r)
  | 1 => .ok (.inc r)
  | 2 => .ok (.dec r)
  | 3 => .ok (.com r)
  | 4 => .ok (.shr r)
  | 5 => .ok (.shl r)
  | 6 => .ok (.shra r)
  | 7 => .ok (.shla r)
  | 8 => .ok (.ror r)
  | 9 => .ok (.rol r)
  | 10 => .ok (.rorc r)
  | 11 => .ok (.rolc r)
  | _ => .error .reservedFunction

/-- Format T (30_encoding.md R93). -/
def decodeT (w : Word) : Decoded := ifZero w 2 4 <|
  match (field w 0 2).toNat with
  | 0 => .ok (.mov (regField w 9) (regField w 6))
  | 1 => .ok (.load (regField w 9) (regField w 6))
  | 2 => .ok (.stor (regField w 9) (regField w 6))
  | _ => .error .reservedFunction

/-- The reserved constants of format I9, 100h to 17Fh as a field (30_encoding.md R94). -/
def mviReserved (i : BitVec 9) : Bool := decide (0x100 ≤ i.toNat ∧ i.toNat ≤ 0x17F)

/-- Format I9 (30_encoding.md R94). -/
def decodeI9 (w : Word) : Decoded :=
  if mviReserved (field w 0 9) then .error .reservedConstant else .ok (.mvi (regField w 9) (field w 0 9))

/-- Format B (30_encoding.md R96, R98). -/
def decodeB (w : Word) : Decoded :=
  let d := field w 0 8
  match (field w 8 4).toNat with
  | 0 => .ok (.br d)
  | 1 => .ok (.brZ d)
  | 2 => .ok (.brNZ d)
  | 3 => .ok (.brN d)
  | 4 => .ok (.brNN d)
  | 5 => .ok (.brP d)
  | 6 => .ok (.brNP d)
  | 7 => .ok (.brC d)
  | 8 => .ok (.brNC d)
  | 9 => .ok (.brO d)
  | 10 => .ok (.brNO d)
  | _ => .error .reservedCondition

/-- Format J, major Ah (30_encoding.md R97, R98). -/
def decodeJmp (w : Word) : Decoded := ifZero w 3 5 <|
  let r := regField w 0
  match (field w 8 4).toNat with
  | 0 => .ok (.jmp r)
  | 1 => .ok (.jmpZ r)
  | 2 => .ok (.jmpNZ r)
  | 3 => .ok (.jmpN r)
  | 4 => .ok (.jmpNN r)
  | 5 => .ok (.jmpP r)
  | 6 => .ok (.jmpNP r)
  | 7 => .ok (.jmpC r)
  | 8 => .ok (.jmpNC r)
  | 9 => .ok (.jmpO r)
  | 10 => .ok (.jmpNO r)
  | _ => .error .reservedCondition

/-- Format J, major Bh (30_encoding.md R97, R98). -/
def decodeJal (w : Word) : Decoded := ifZero w 3 5 <|
  let r := regField w 0
  match (field w 8 4).toNat with
  | 0 => .ok (.jal r)
  | 1 => .ok (.jalZ r)
  | 2 => .ok (.jalNZ r)
  | 3 => .ok (.jalN r)
  | 4 => .ok (.jalNN r)
  | 5 => .ok (.jalP r)
  | 6 => .ok (.jalNP r)
  | 7 => .ok (.jalC r)
  | 8 => .ok (.jalNC r)
  | 9 => .ok (.jalO r)
  | 10 => .ok (.jalNO r)
  | _ => .error .reservedCondition

/-- The instruction a program word stands for, by its major opcode, bits 15 to 12
(30_encoding.md R87, R102). -/
def decodeWord (w : Word) : Decoded :=
  match (field w 12 4).toNat with
  | 0x0 => decodeZ w
  | 0x1 => decodeK w
  | 0x2 => decodeR3 w
  | 0x3 => decodeR2 w
  | 0x4 => decodeR1 w
  | 0x5 => decodeT w
  | 0x6 => decodeI9 w
  | 0x7 => ifZero w 8 1 (.ok (.mvih (regField w 9) (field w 0 8)))
  | 0x8 => ifZero w 8 1 (.ok (.mvil (regField w 9) (field w 0 8)))
  | 0x9 => decodeB w
  | 0xA => decodeJmp w
  | 0xB => decodeJal w
  | _ => .error .reservedMajor

/-- The decoder on any octets, low octet of a word first (log 2): the instruction and the octets after it. -/
def decode : List Byte → Except DecodeReject (Instr × List Byte)
  | lo :: hi :: rest =>
    match decodeWord (hi ++ lo) with
    | .ok i => .ok (i, rest)
    | .error r => .error r
  | _ => .error .truncated

/-- The octets of a word, low octet first (log 2). -/
def Word.octets (w : Word) : List Byte := [field w 0 8, field w 8 8]

/-- The decoder on a table row's bits: bit 0 the least significant, every bit from `nbits` up 0. -/
def decodeTableWord (nbits w : Nat) : Option Instr :=
  match decode (Word.octets (BitVec.ofNat 16 (w % 2 ^ nbits))) with
  | .ok (i, _) => some i
  | .error _ => none

/-! ### Encoding -/

/-- The 3-bit number of a register (30_encoding.md R102). -/
def Reg.bits : Reg → BitVec 3
  | .r0 => 0 | .r1 => 1 | .r2 => 2 | .r3 => 3 | .r4 => 4 | .r5 => 5 | .r6 => 6 | .r7 => 7

/-- A field of `n` bits put at bit `lo` of a word that is 0 elsewhere (00_scope.md R11). -/
def putField {n : Nat} (b : BitVec n) (lo : Nat) : Word := b.setWidth 16 <<< lo

/-- Format Z (30_encoding.md R88). -/
def encodeZ (f : BitVec 4) : Word := putField f 0

/-- Format K (30_encoding.md R89). -/
def encodeK (k : BitVec 8) : Word := 0x1000 ||| putField k 0

/-- Format R3 (30_encoding.md R90). -/
def encodeR3 (d s t : Reg) (f : BitVec 3) : Word :=
  0x2000 ||| putField d.bits 9 ||| putField s.bits 6 ||| putField t.bits 3 ||| putField f 0

/-- Format R2 (30_encoding.md R91). -/
def encodeR2 (s t : Reg) (f : BitVec 3) : Word :=
  0x3000 ||| putField s.bits 6 ||| putField t.bits 3 ||| putField f 0

/-- Format R1 (30_encoding.md R92). -/
def encodeR1 (r : Reg) (f : BitVec 4) : Word := 0x4000 ||| putField r.bits 9 ||| putField f 0

/-- Format T (30_encoding.md R93). -/
def encodeT (x y : Reg) (f : BitVec 2) : Word :=
  0x5000 ||| putField x.bits 9 ||| putField y.bits 6 ||| putField f 0

/-- Format I9 (30_encoding.md R94). -/
def encodeI9 (r : Reg) (i : BitVec 9) : Word := 0x6000 ||| putField r.bits 9 ||| putField i 0

/-- Format I8 (30_encoding.md R95). -/
def encodeI8 (major : BitVec 4) (r : Reg) (i : BitVec 8) : Word :=
  putField major 12 ||| putField r.bits 9 ||| putField i 0

/-- Format B (30_encoding.md R96). -/
def encodeB (c : BitVec 4) (d : BitVec 8) : Word := 0x9000 ||| putField c 8 ||| putField d 0

/-- Format J (30_encoding.md R97). -/
def encodeJ (major c : BitVec 4) (r : Reg) : Word :=
  putField major 12 ||| putField c 8 ||| putField r.bits 0

/-- The PE-1 word of an instruction (30_encoding.md R88 to R98). -/
def encode : Instr → Word
  | .nop => encodeZ 0
  | .eni => encodeZ 1
  | .dsi => encodeZ 2
  | .stc => encodeZ 3
  | .clc => encodeZ 4
  | .cmc => encodeZ 5
  | .rti => encodeZ 6
  | .int k => encodeK k
  | .add d s t => encodeR3 d s t 0
  | .addc d s t => encodeR3 d s t 1
  | .sub d s t => encodeR3 d s t 2
  | .subb d s t => encodeR3 d s t 3
  | .and d s t => encodeR3 d s t 4
  | .or d s t => encodeR3 d s t 5
  | .xor d s t => encodeR3 d s t 6
  | .cmp s t => encodeR2 s t 0
  | .test s t => encodeR2 s t 1
  | .neg r => encodeR1 r 0
  | .inc r => encodeR1 r 1
  | .dec r => encodeR1 r 2
  | .com r => encodeR1 r 3
  | .shr r => encodeR1 r 4
  | .shl r => encodeR1 r 5
  | .shra r => encodeR1 r 6
  | .shla r => encodeR1 r 7
  | .ror r => encodeR1 r 8
  | .rol r => encodeR1 r 9
  | .rorc r => encodeR1 r 10
  | .rolc r => encodeR1 r 11
  | .mov x y => encodeT x y 0
  | .load x y => encodeT x y 1
  | .stor x y => encodeT x y 2
  | .mvi r c => encodeI9 r c
  | .mvih r b => encodeI8 0x7 r b
  | .mvil r b => encodeI8 0x8 r b
  | .br d => encodeB 0 d
  | .brZ d => encodeB 1 d
  | .brNZ d => encodeB 2 d
  | .brN d => encodeB 3 d
  | .brNN d => encodeB 4 d
  | .brP d => encodeB 5 d
  | .brNP d => encodeB 6 d
  | .brC d => encodeB 7 d
  | .brNC d => encodeB 8 d
  | .brO d => encodeB 9 d
  | .brNO d => encodeB 10 d
  | .jmp r => encodeJ 0xA 0 r
  | .jmpZ r => encodeJ 0xA 1 r
  | .jmpNZ r => encodeJ 0xA 2 r
  | .jmpN r => encodeJ 0xA 3 r
  | .jmpNN r => encodeJ 0xA 4 r
  | .jmpP r => encodeJ 0xA 5 r
  | .jmpNP r => encodeJ 0xA 6 r
  | .jmpC r => encodeJ 0xA 7 r
  | .jmpNC r => encodeJ 0xA 8 r
  | .jmpO r => encodeJ 0xA 9 r
  | .jmpNO r => encodeJ 0xA 10 r
  | .jal r => encodeJ 0xB 0 r
  | .jalZ r => encodeJ 0xB 1 r
  | .jalNZ r => encodeJ 0xB 2 r
  | .jalN r => encodeJ 0xB 3 r
  | .jalNN r => encodeJ 0xB 4 r
  | .jalP r => encodeJ 0xB 5 r
  | .jalNP r => encodeJ 0xB 6 r
  | .jalC r => encodeJ 0xB 7 r
  | .jalNC r => encodeJ 0xB 8 r
  | .jalO r => encodeJ 0xB 9 r
  | .jalNO r => encodeJ 0xB 10 r

/-! ### The parameter ENCODING (30_encoding.md R85; log 46) -/

/-- What a word stands for under an ENCODING: total, a term or a rejection (30_encoding.md R85 (3)). -/
def decodeBy (enc : Config.Encoding) (w : Word) : Decoded :=
  match enc with
  | .pe1 => decodeWord w
  | .table rows =>
    match rows.lookup w with
    | some i => .ok i
    | none => .error .unassigned

/-- The word of an instruction under an ENCODING, if it gives one. -/
def encodeBy (enc : Config.Encoding) (i : Instr) : Option Word :=
  match enc with
  | .pe1 => if i.wellFormed then some (encode i) else none
  | .table rows => (rows.find? fun row => row.2 == i).map Prod.fst

/-- The requirements on an ENCODING: a word for every legal term, none for another, and no word for two
(30_encoding.md R85 (1), (2)). -/
def Config.Encoding.legal : Config.Encoding → Prop
  | .pe1 => True
  | .table rows =>
    (rows.map Prod.fst).Nodup ∧ (rows.map Prod.snd).Nodup ∧
      ∀ i : Instr, i.wellFormed = true ↔ i ∈ rows.map Prod.snd

end Sys2Proof
end

