-- ==== Sys2Proof/Machine/State.lean ====
section
/-! DEFINITION. The state of a P4 machine (10_state.md R20; 61_io_devices.md R340) and its reset value
(10_state.md R40; 70_reset_and_hazards.md R351). -/

namespace Sys2Proof.Machine

/-- The P4 has no fault: no instruction raises a synchronous exception and every access completes
(60_exceptions.md R260, 20_memory.md R63; log 36). -/
inductive Fault where
deriving DecidableEq, Repr

/-- Why the model refuses a step. -/
inductive Refusal where
  /-- `exec` has no meaning for the instruction; raised by an arm of `exec` only. Safe: the model stops. -/
  | notModelled (mnemonic : String)
  /-- The fetched program position was not loaded (93_implementation_defined.md U2, 20_memory.md R68);
  raised by the fetch. Safe: the spec asks a model to refuse; the chip goes on in some way. -/
  | unloadedProgram
  /-- The fetched word is no instruction (U1, 30_encoding.md R99); raised by the fetch. Safe, as above. -/
  | reservedWord (why : DecodeReject)
  /-- A control instruction in the delay slot of a taken jump (U3, 43_control.md R210); raised by the
  meanings of BR, JMP, JAL, their conditional forms, INT and RTI. Safe, as above. -/
  | controlInDelaySlot
deriving DecidableEq, Repr

/-- The registers R1 to R7. R0 is the constant 0 and has no storage (10_state.md R20, R21). -/
structure Regs where
  r1 : Word
  r2 : Word
  r3 : Word
  r4 : Word
  r5 : Word
  r6 : Word
  r7 : Word
deriving DecidableEq, Repr

/-- The five status bits of RE (10_state.md R29), held as five separate bits (R31). -/
structure Flags where
  e : Bool
  z : Bool
  c : Bool
  n : Bool
  o : Bool
deriving DecidableEq, Repr

/-- One written cell of the terminal (61_io_devices.md R302). -/
structure TermCell where
  char : Byte
  fg : Byte
  bg : Byte
deriving DecidableEq, Repr

/-- The terminal's cursor: at a row and column, or unspecified since the `n`-th write that left it so, when
its row and column are `Config.termRow n` and `Config.termCol n` (61_io_devices.md R306, U8; log 28). -/
inductive TermCursor where
  | at (row col : Nat)
  | unspecified (n : Nat)
deriving DecidableEq, Repr

/-- What the cells that `Terminal.cells` does not list hold: blank, or `Config.termCell n` since the `n`-th
write that left the screen unspecified (61_io_devices.md R306, U8; log 28). -/
inductive ScreenBase where
  | blank
  | unspecified (n : Nat)
deriving DecidableEq, Repr

/-- The terminal and its keyboard (61_io_devices.md R302). -/
structure Terminal where
  /-- the cells written since the screen was last blank or unspecified, by `80 * row + column` -/
  cells : List (Nat × TermCell)
  base : ScreenBase
  cursor : TermCursor
  fg : Byte
  bg : Byte
  /-- K, the last key code -/
  key : Word
  /-- KF, a key was pressed since the last read -/
  keyFlag : Bool
  /-- the model's own count of the writes that left the screen unspecified (log 28) -/
  epoch : Nat
deriving DecidableEq, Repr

/-- The timer: TR, TD, TE (61_io_devices.md R320). -/
structure Timer where
  run : Bool
  duration : Word
  elapsed : Nat
deriving DecidableEq, Repr

/-- The LCD: written cells by `16 * line + column`, cursor, on/off (61_io_devices.md R325). A cell not
listed is blank. -/
structure Lcd where
  cells : List Host.Cell
  line : Nat
  col : Nat
  on : Bool
deriving DecidableEq, Repr

/-- The six seven-segment displays (61_io_devices.md R330). -/
structure Displays where
  d0 : BitVec 4
  d1 : BitVec 4
  d2 : BitVec 4
  d3 : BitVec 4
  d4 : BitVec 4
  d5 : BitVec 4
deriving DecidableEq, Repr

/-- The device state (10_state.md R38). -/
structure Devices where
  term : Terminal
  sw : BitVec 10
  led : BitVec 10
  timer : Timer
  lcd : Lcd
  disp : Displays
  accX : Word
  accY : Word
  accZ : Word
deriving DecidableEq, Repr

/-- The seven push buttons (61_io_devices.md R335). -/
inductive Button where
  | key0 | key1 | right | up | down | left | select
deriving DecidableEq, Repr

/-- The events a host can deliver at a boundary (80_host_simulator.md R388). -/
inductive HostEvent where
  | button (b : Button)
  | key (code : Word)
  | switch (i : Fin 10) (up : Bool)
  | accel (x y z : Word)
  | tick
  | reset
deriving DecidableEq, Repr

/-- The state of a P4 machine at an instruction boundary (10_state.md R20, R28). -/
structure State where
  regs : Regs
  /-- program counter (10_state.md R24) -/
  pc : Word
  /-- delayed jump target (10_state.md R27) -/
  ds : Option Word
  /-- status bits (10_state.md R29) -/
  re : Flags
  /-- PC_E (10_state.md R32) -/
  pcE : Word
  /-- RE_E (10_state.md R32) -/
  reE : Flags
  /-- interrupt mask (10_state.md R33) -/
  im : Word
  /-- pending bits (10_state.md R34) -/
  ip : Word
  /-- program memory: position n in the octet cells 2n (low) and 2n+1 (high) (10_state.md R36; log 2) -/
  pmem : List Host.Cell
  /-- data memory, in the same form (10_state.md R37; log 2) -/
  dmem : List Host.Cell
  dev : Devices
  /-- the host's event stream: at the head, the events since the last boundary (R388; log 31) -/
  inputs : List (List HostEvent)
  /-- the open parameters of this machine, which no step changes (00_scope.md R9; log 46) -/
  params : Config.Params
  /-- the model's own count of the free values taken (log 35) -/
  freeCount : Nat
deriving DecidableEq, Repr

/-- Every status bit 0 (10_state.md R31, R40). -/
def Flags.clear : Flags := { e := false, z := false, c := false, n := false, o := false }

/-- The devices after reset (61_io_devices.md R340). Colours, LCD on/off and displays, which R340 leaves
unspecified, are named 0 in log 7; switches and accelerometer, which it does not reset, in log 8. -/
def Devices.initial : Devices :=
  { term :=
      { cells := [], base := .blank, cursor := .at 0 0, fg := 0, bg := 0, key := 0, keyFlag := false,
        epoch := 0 }
    sw := 0
    led := 0
    timer := { run := false, duration := 0, elapsed := 0 }
    lcd := { cells := [], line := 0, col := 0, on := false }
    disp := { d0 := 0, d1 := 0, d2 := 0, d3 := 0, d4 := 0, d5 := 0 }
    accX := 0
    accY := 0
    accZ := 0 }

/-- The machine right after reset (10_state.md R40; 70_reset_and_hazards.md R351), with nothing loaded
(log 3) and no host event waiting. -/
def State.reset : State :=
  { regs := { r1 := 0, r2 := 0, r3 := 0, r4 := 0, r5 := 0, r6 := 0, r7 := 0 }
    pc := 0
    ds := none
    re := Flags.clear
    pcE := 0
    reE := Flags.clear
    im := 0
    ip := 0
    pmem := []
    dmem := []
    dev := Devices.initial
    inputs := []
    params := Config.Params.default
    freeCount := 0 }

end Sys2Proof.Machine
end

