-- ==== Sys2Proof/Machine/Ops.lean ====
section
/-! DEFINITION. The named operations over registers and memory, and taking and leaving an interrupt. -/

namespace Sys2Proof.Machine

/-! ### Sparse memory: a list of keys and values, keys strictly rising -/

/-- The value listed at a key, or none. -/
def sparseRead {α : Type} : List (Nat × α) → Nat → Option α
  | [], _ => none
  | (k, v) :: m, a => if k = a then some v else sparseRead m a

/-- The memory with `v` at key `a`, in its place by key. -/
def sparseWrite {α : Type} : List (Nat × α) → Nat → α → List (Nat × α)
  | [], a, v => [(a, v)]
  | (k, x) :: m, a, v =>
    if a < k then (a, v) :: (k, x) :: m
    else if a = k then (a, v) :: m
    else (k, x) :: sparseWrite m a v

/-- The canonical form: keys strictly rising and below `bound`. An unlisted key reads as `none`, so no
entry can equal what an unlisted key reads as, and equal contents are equal lists. -/
abbrev sparseWf {α : Type} (bound : Nat) (m : List (Nat × α)) : Prop :=
  (m.map Prod.fst).Pairwise (· < ·) ∧ ∀ k ∈ m.map Prod.fst, k < bound

/-! ### Words in octet cells (log 2) -/

/-- The canonical form of the program and the data memory: 32768 positions, two octet cells each
(20_memory.md R50). -/
abbrev Memory.wf (m : List Host.Cell) : Prop := sparseWf 65536 m

/-- The position an address selects: its 15 least significant bits (20_memory.md R52, R60). -/
def position (addr : Word) : Nat := (addr.setWidth 15).toNat

/-- One octet cell of data memory; one that nothing wrote holds a free value (20_memory.md R68; log 24). -/
def Memory.octet (m : List Host.Cell) (a : Nat) : Byte := (sparseRead m a).getD (Config.uninit a)

/-- The word at position `n` of data memory. -/
def Memory.word (m : List Host.Cell) (n : Nat) : Word := Memory.octet m (2 * n + 1) ++ Memory.octet m (2 * n)

/-- The word at position `n` of program memory, if the host loaded it (20_memory.md R68, U2). -/
def Memory.loadedWord (m : List Host.Cell) (n : Nat) : Option Word :=
  match sparseRead m (2 * n + 1), sparseRead m (2 * n) with
  | some hi, some lo => some (hi ++ lo)
  | _, _ => none

/-- The memory with the word `v` at position `n`. -/
def Memory.setWord (m : List Host.Cell) (n : Nat) (v : Word) : List Host.Cell :=
  sparseWrite (sparseWrite m (2 * n) (v.extractLsb' 0 8)) (2 * n + 1) (v.extractLsb' 8 8)

/-! ### General registers (10_state.md R21) -/

/-- `x[r]`; R0 reads 0000h. -/
def State.reg (s : State) : Reg → Word
  | .r0 => 0
  | .r1 => s.regs.r1
  | .r2 => s.regs.r2
  | .r3 => s.regs.r3
  | .r4 => s.regs.r4
  | .r5 => s.regs.r5
  | .r6 => s.regs.r6
  | .r7 => s.regs.r7

/-- The register file after `x[r] <- v`; a write to R0 has no effect. -/
def Regs.set (g : Regs) (r : Reg) (v : Word) : Regs :=
  match r with
  | .r0 => g
  | .r1 => { g with r1 := v }
  | .r2 => { g with r2 := v }
  | .r3 => { g with r3 := v }
  | .r4 => { g with r4 := v }
  | .r5 => { g with r5 := v }
  | .r6 => { g with r6 := v }
  | .r7 => { g with r7 := v }

/-- `x[r] <- v`. -/
def State.setReg (s : State) (r : Reg) (v : Word) : State := { s with regs := s.regs.set r v }

/-- RE replaced. -/
def State.setRe (s : State) (f : Flags) : State := { s with re := f }

/-! ### The program counter and the delay slot (10_state.md R24, R25, R27, R28) -/

/-- What a program counter of the given width holds when `a` is written to it (PC_WIDTH, 10_state.md R24; log 4). -/
def fitPc (width : Config.PcWidth) (a : Word) : Word :=
  match width with
  | .bits15 => a &&& 0x7FFF#16
  | .bits16 => a

/-- `pc <- a`. -/
def State.setPc (s : State) (a : Word) : State := { s with pc := fitPc s.params.pcWidth a }

/-- Step 3 of the instruction cycle: pc moves to the delayed target if there is one, else to the next
position; no target is left pending (10_state.md R28). -/
def State.advance (s : State) : State := { s.setPc (s.ds.getD (s.pc + 1)) with ds := none }

/-- A taken jump with a delay slot: `ds <- some target` (43_control.md R201). -/
def State.jumpTo (s : State) (target : Word) : State := { s with ds := some target }

/-- Whether the instructions of a kind have a delay slot (DELAY_SLOT_SET, 00_scope.md R9; log 13). -/
def State.hasSlot (s : State) (k : Config.ControlKind) : Bool := s.params.delaySlotSet.contains k

/-- A change of control to `target`: after the delay slot where there is one, else at once (43_control.md R201,
R208, R209). -/
def State.goTo (s : State) (slot : Bool) (target : Word) : State :=
  if slot then s.jumpTo target else s.setPc target

/-! ### Interrupts (60_exceptions.md R268 to R270) -/

/-- 7F00h, the base address of the service routines (60_exceptions.md R262). -/
def intBase : Word := 0x7F00

/-- The status bits after the `n`-th entry: E is 0; Z, C, N, O are free values (ENTRY_FLAGS, 60_exceptions.md
R268; 43_control.md R209; log 17). -/
def entryFlags (n : Nat) : Flags :=
  { e := false, z := Config.entryZ n, c := Config.entryC n, n := Config.entryN n, o := Config.entryO n }

/-- What an entry saves: PC_E receives `ret`, RE_E the status bits; E falls and Z, C, N, O take free values
(60_exceptions.md R268; ENTRY_FLAGS, log 17). -/
def State.saveContext (s : State) (ret : Word) : State :=
  { s with
    pcE := ret
    reE := s.re
    re := entryFlags s.freeCount
    freeCount := s.freeCount + 1 }

/-- Taking an interrupt, the operation that INT (43_control.md R209) and a hardware entry
(60_exceptions.md R268) share: the context is saved and control goes to the routine at `target`, after a delay
slot only where DELAY_SLOT_SET gives INT one (log 13). -/
def State.enter (s : State) (ret : Word) (slot : Bool) (target : Word) : State := (s.saveContext ret).goTo slot target

/-- The return from an interrupt: `pc <- PC_E; RE <- RE_E`, and nothing else (43_control.md R208;
60_exceptions.md R270); pc after a delay slot only where DELAY_SLOT_SET gives RTI one (log 13). -/
def State.leave (s : State) : State := (s.setRe s.reE).goTo (s.hasSlot .rti) s.pcE

/-- `IP[v] <- 1`. -/
def State.setPending (s : State) (v : Nat) : State := { s with ip := s.ip ||| (1#16 <<< v) }

/-- `IP[v] <- 0`. -/
def State.clearPending (s : State) (v : Nat) : State := { s with ip := s.ip &&& ~~~(1#16 <<< v) }

/-- Whether vector `v` is enabled at this moment: `E = 1 and IM[v] = 1` (60_exceptions.md R263, R264, R265). -/
def State.enabled (s : State) (v : Nat) : Bool := s.re.e && s.im.getLsbD v

/-- A request on vector `v`, under IRQ_POLICY (60_exceptions.md R263, R273; log 18). -/
def State.raise (s : State) (v : Nat) : State :=
  match s.params.irqPolicy with
  | .latch => s.setPending v
  | .drop => if s.enabled v then s.setPending v else s

/-- A request that can be taken: `IP[v] = 1 and IM[v] = 1 and E = 1` (60_exceptions.md R266). -/
def State.takeable (s : State) (v : Nat) : Bool := s.ip.getLsbD v && s.enabled v

/-- The vectors with a takeable request, lowest first. -/
def State.candidates (s : State) : List Nat := (List.range 16).filter s.takeable

/-- The request taken at this boundary, if any: none while a delayed target is pending (60_exceptions.md
R267), else one of the takeable ones, which one being a free choice if there are several (R272; log 19). -/
def State.accepted (s : State) : Option Nat :=
  if s.ds.isSome then none
  else
    match s.candidates with
    | [] => none
    | [v] => some v
    | v :: w :: vs => (v :: w :: vs)[Config.irqChoice s.freeCount % (vs.length + 2)]?

/-- `HandlerAddress(v) = 7F00h + (v << 4)` of a hardware vector (60_exceptions.md R262). -/
def handlerAddress (v : Nat) : Word := intBase + (BitVec.ofNat 16 v <<< 4)

/-- Entry for the hardware interrupt of vector `v` (60_exceptions.md R268): it returns to the instruction
that would have executed next, consumes the request and has no delay slot (decision D9). -/
def State.takeInterrupt (s : State) (v : Nat) : State := (s.clearPending v).enter s.pc false (handlerAddress v)

/-! ### Fetch (20_memory.md R60) -/

/-- `Fetch(pc)`: the word of program memory at `pc[14:0]`, if the host loaded one. -/
def State.fetchWord (s : State) : Option Word := Memory.loadedWord s.pmem (position s.pc)

/-- The state with the word `w` in program memory where the next fetch reads. -/
def State.placeAtPc (s : State) (w : Word) : State :=
  { s with pmem := Memory.setWord s.pmem (position s.pc) w }

end Sys2Proof.Machine
end

