-- ==== Sys2Proof/Machine/Devices.lean ====
section
/-! DEFINITION. The input/output window: ports, devices, and the host's events (61_io_devices.md;
80_host_simulator.md R388). -/

namespace Sys2Proof.Machine

/-! ### The port map -/

/-- The ports of Tabela 3, and the addresses FF00h to FFEAh that no device uses (61_io_devices.md R301, R339). -/
inductive Port where
  | termKey | termWrite | termStatus | termCursor | termColour
  | mask | switches | led | timerControl | timerCount
  | lcdWrite | lcdControl
  | disp0 | disp1 | disp2 | disp3 | disp4 | disp5
  | accX | accY | accZ
  | undescribed
deriving DecidableEq, Repr

/-- Tabela 3: the port at a window address (61_io_devices.md R301, R330). -/
def portAt (addr : Word) : Port :=
  if addr = 0xFFFF then .termKey
  else if addr = 0xFFFE then .termWrite
  else if addr = 0xFFFD then .termStatus
  else if addr = 0xFFFC then .termCursor
  else if addr = 0xFFFB then .termColour
  else if addr = 0xFFFA then .mask
  else if addr = 0xFFF9 then .switches
  else if addr = 0xFFF8 then .led
  else if addr = 0xFFF7 then .timerControl
  else if addr = 0xFFF6 then .timerCount
  else if addr = 0xFFF5 then .lcdWrite
  else if addr = 0xFFF4 then .lcdControl
  else if addr = 0xFFF3 then .disp3
  else if addr = 0xFFF2 then .disp2
  else if addr = 0xFFF1 then .disp1
  else if addr = 0xFFF0 then .disp0
  else if addr = 0xFFEF then .disp5
  else if addr = 0xFFEE then .disp4
  else if addr = 0xFFED then .accZ
  else if addr = 0xFFEC then .accY
  else if addr = 0xFFEB then .accX
  else .undescribed

/-- Whether a data address lies in the input/output window (20_memory.md R52; log 21). -/
def inWindow (addr : Word) : Bool := decide (0xFF00 ≤ addr.toNat)

/-! ### Terminal (61_io_devices.md R302 to R308) -/

/-- The content of cell `k = 80 * row + column`, `none` a blank cell. -/
def Terminal.cell (t : Terminal) (k : Nat) : Option TermCell :=
  match sparseRead t.cells k with
  | some x => some x
  | none =>
    match t.base with
    | .blank => none
    | .unspecified n => (Config.termCell n k).map fun x => { char := x.1, fg := x.2.1, bg := x.2.2 }

/-- The row of the cursor. -/
def Terminal.row (t : Terminal) : Nat :=
  match t.cursor with
  | .at row _ => row
  | .unspecified n => Config.termRow n

/-- The column of the cursor. -/
def Terminal.col (t : Terminal) : Nat :=
  match t.cursor with
  | .at _ col => col
  | .unspecified n => Config.termCol n

/-- The cursor and all screen content become unspecified (61_io_devices.md R306, U8; log 28). -/
def Terminal.spoil (t : Terminal) : Terminal :=
  { t with cells := [], base := .unspecified t.epoch, cursor := .unspecified t.epoch, epoch := t.epoch + 1 }

/-- The position after (row, col): left to right, top to bottom, then back to the first (61_io_devices.md R304). -/
def nextCell (rows cols row col : Nat) : Nat × Nat :=
  if col + 1 = cols then (if row + 1 = rows then (0, 0) else (row + 1, 0)) else (row, col + 1)

/-- Port FFFEh, write: a character at the cursor, which moves on (61_io_devices.md R304). While the cursor
is unspecified the character lands in an unspecified cell (U8). -/
def Terminal.putChar (t : Terminal) (code : Byte) : Terminal :=
  match t.cursor with
  | .unspecified _ => t.spoil
  | .at row col =>
    { t with
      cells := sparseWrite t.cells (80 * row + col) { char := code, fg := t.fg, bg := t.bg }
      cursor := .at (nextCell 45 80 row col).1 (nextCell 45 80 row col).2 }

/-- Port FFFCh, write: the cursor position, bits 15 to 8 the row and 7 to 0 the column (61_io_devices.md R306). -/
def Terminal.setCursor (t : Terminal) (v : Word) : Terminal :=
  let row := (v.extractLsb' 8 8).toNat
  let col := (v.extractLsb' 0 8).toNat
  if row ≤ 44 ∧ col ≤ 79 then { t with cursor := .at row col } else t.spoil

/-- Port FFFBh, write: bits 15 to 8 the background, 7 to 0 the character colour (61_io_devices.md R307). -/
def Terminal.setColour (t : Terminal) (v : Word) : Terminal :=
  { t with bg := v.extractLsb' 8 8, fg := v.extractLsb' 0 8 }

/-- Port FFFFh, read: the last key, or 0 if none was pressed since the last read (61_io_devices.md R303). -/
def Terminal.lastKey (t : Terminal) : Word := if t.keyFlag then t.key else 0

/-! ### Timer (61_io_devices.md R320 to R323; log 30) -/

/-- Port FFF7h, write: bit 0 starts the count from zero or stops it (61_io_devices.md R321). -/
def Timer.control (t : Timer) (v : Word) : Timer :=
  if v.getLsbD 0 then { t with run := true, elapsed := 0 } else { t with run := false }

/-- The timer one tick of 100 ms later (61_io_devices.md R322). -/
def Timer.tick (t : Timer) : Timer :=
  if t.run then
    { t with elapsed := t.elapsed + 1, run := decide (t.elapsed + 1 < t.duration.toNat) }
  else t

/-- Whether the count ends at this tick (61_io_devices.md R322). -/
def Timer.expires (t : Timer) : Bool := t.run && decide (t.duration.toNat ≤ t.elapsed + 1)

/-! ### LCD (61_io_devices.md R325 to R327; log 29) -/

/-- Port FFF5h, write: a character at the cursor, which moves on (61_io_devices.md R326). -/
def Lcd.putChar (l : Lcd) (code : Byte) : Lcd :=
  { l with
    cells := sparseWrite l.cells (16 * l.line + l.col) code
    line := (nextCell 2 16 l.line l.col).1
    col := (nextCell 2 16 l.line l.col).2 }

/-- Port FFF4h, write: on/off in bit 15, clear in bit 5, line in bit 4, column in bits 3 to 0
(61_io_devices.md R327). -/
def Lcd.control (l : Lcd) (v : Word) : Lcd :=
  { on := v.getLsbD 15
    cells := if v.getLsbD 5 then [] else l.cells
    line := (v.extractLsb' 4 1).toNat
    col := (v.extractLsb' 0 4).toNat }

/-! ### Port access (61_io_devices.md R300) -/

/-- The devices replaced. -/
def State.setDev (s : State) (d : Devices) : State := { s with dev := d }

/-- IM replaced (61_io_devices.md R318). -/
def State.setMask (s : State) (v : Word) : State := { s with im := v }

/-- The state after a free value was taken. -/
def State.bumpFree (s : State) : State := { s with freeCount := s.freeCount + 1 }

/-- A single bit as the word a port returns: 0001h or 0000h. -/
def bitWord (b : Bool) : Word := if b then 1 else 0

/-- `PortRead(A)`: the value, and the state after the read. A read of a port that Tabela 3 does not mark
readable, or of an address no device uses, returns a fresh free value (61_io_devices.md R339, the laxer
instance; log 22). -/
def State.portRead (s : State) (addr : Word) : Word × State :=
  match portAt addr with
  | .termKey => (s.dev.term.lastKey, s.setDev { s.dev with term := { s.dev.term with keyFlag := false } })
  | .termStatus => (bitWord s.dev.term.keyFlag, s)
  | .mask => (s.im, s)
  | .switches => (s.dev.sw.setWidth 16, s)
  | .timerControl => (bitWord s.dev.timer.run, s)
  | .timerCount => (BitVec.ofNat 16 s.dev.timer.elapsed, s)
  | .accX => (s.dev.accX, s)
  | .accY => (s.dev.accY, s)
  | .accZ => (s.dev.accZ, s)
  | .termWrite | .termCursor | .termColour | .led | .lcdWrite | .lcdControl
  | .disp0 | .disp1 | .disp2 | .disp3 | .disp4 | .disp5 | .undescribed =>
    (Config.portRead s.freeCount, s.bumpFree)

/-- The devices after `PortWrite(A, v)`; a write that Tabela 3 does not mark changes nothing (61_io_devices.md R339,
the laxer instance; log 22). -/
def Devices.write (d : Devices) (p : Port) (v : Word) : Devices :=
  match p with
  | .termWrite => { d with term := d.term.putChar (v.extractLsb' 0 8) }
  | .termCursor => { d with term := d.term.setCursor v }
  | .termColour => { d with term := d.term.setColour v }
  | .led => { d with led := v.extractLsb' 0 10 }
  | .timerControl => { d with timer := d.timer.control v }
  | .timerCount => { d with timer := { d.timer with duration := v } }
  | .lcdWrite => { d with lcd := d.lcd.putChar (v.extractLsb' 0 8) }
  | .lcdControl => { d with lcd := d.lcd.control v }
  | .disp0 => { d with disp := { d.disp with d0 := v.extractLsb' 0 4 } }
  | .disp1 => { d with disp := { d.disp with d1 := v.extractLsb' 0 4 } }
  | .disp2 => { d with disp := { d.disp with d2 := v.extractLsb' 0 4 } }
  | .disp3 => { d with disp := { d.disp with d3 := v.extractLsb' 0 4 } }
  | .disp4 => { d with disp := { d.disp with d4 := v.extractLsb' 0 4 } }
  | .disp5 => { d with disp := { d.disp with d5 := v.extractLsb' 0 4 } }
  | .mask | .termKey | .termStatus | .switches | .accX | .accY | .accZ | .undescribed => d

/-- `PortWrite(A, v)` (61_io_devices.md R300). The mask is the processor's own register (10_state.md R33). -/
def State.portWrite (s : State) (addr : Word) (v : Word) : State :=
  match portAt addr with
  | .mask => s.setMask v
  | p => s.setDev (s.dev.write p v)

/-! ### Host events (80_host_simulator.md R388; log 31) -/

/-- The vector of a push button (60_exceptions.md R261). -/
def Button.vector : Button → Nat
  | .key0 => 0
  | .key1 => 1
  | .right => 2
  | .up => 3
  | .down => 4
  | .left => 5
  | .select => 6

/-- The vector of the keyboard (60_exceptions.md R261). -/
def keyboardVector : Nat := 7

/-- The vector of the timer (60_exceptions.md R261). -/
def timerVector : Nat := 15

/-- The switches with switch `i`, counted from the right, up (1) or down (0) (61_io_devices.md R319). -/
def moveSwitch (sw : BitVec 10) (i : Fin 10) (up : Bool) : BitVec 10 :=
  if up then sw ||| (1#10 <<< i.val) else sw &&& ~~~(1#10 <<< i.val)

/-- A timer tick: the timer counts, and raises its request when the count ends (61_io_devices.md R322). -/
def State.timerTick (s : State) : State :=
  let s' := s.setDev { s.dev with timer := s.dev.timer.tick }
  if s.dev.timer.expires then s'.raise timerVector else s'

/-- The host's Reset: registers and peripherals are reinitialised, pc to RESET_PC; both memories, the switches and the
accelerometer are kept (70_reset_and_hazards.md R351, R352; 80_host_simulator.md R384), and so are the
model's own fields (log 32). -/
def State.hostReset (s : State) : State :=
  { State.reset with
    pc := fitPc s.params.pcWidth s.params.resetPc
    pmem := s.pmem
    dmem := s.dmem
    dev :=
      { Devices.initial with
        sw := s.dev.sw
        accX := s.dev.accX
        accY := s.dev.accY
        accZ := s.dev.accZ
        term := { Devices.initial.term with epoch := s.dev.term.epoch } }
    inputs := s.inputs
    params := s.params
    freeCount := s.freeCount }

/-- One host event applied to the state (80_host_simulator.md R388). -/
def State.applyEvent (s : State) : HostEvent → State
  | .button b => s.raise b.vector
  | .key code =>
    (s.setDev { s.dev with term := { s.dev.term with key := code, keyFlag := true } }).raise keyboardVector
  | .switch i up => s.setDev { s.dev with sw := moveSwitch s.dev.sw i up }
  | .accel x y z => s.setDev { s.dev with accX := x, accY := y, accZ := z }
  | .tick => s.timerTick
  | .reset => s.hostReset

/-- Step 1 of the instruction cycle: the events since the last boundary are applied, in order, and leave
the stream (10_state.md R28). -/
def State.deliver (s : State) : State :=
  match s.inputs with
  | [] => s
  | events :: later => events.foldl State.applyEvent { s with inputs := later }

end Sys2Proof.Machine
end

