-- ==== Sys2Proof/Machine/Flags.lean ====
section
/-! DEFINITION. The adder, the flag computations of each family and the conditions. -/

namespace Sys2Proof.Machine

/-- What the adder returns: result, carry, overflow. -/
structure Sum where
  r : Word
  c : Bool
  o : Bool
deriving DecidableEq, Repr

/-- `AddCore(a, b, cin)`, computed on integers (40_arithmetic.md R150). -/
def addCore (a b : Word) (cin : Bool) : Sum :=
  let sum17 := a.toNat + b.toNat + cin.toNat
  let exact := a.toInt + b.toInt + (cin.toNat : Int)
  { r := BitVec.ofNat 16 sum17
    c := decide (sum17 / 65536 = 1)
    o := decide (exact < -32768 ∨ 32767 < exact) }

/-- `x - y - (1 - cin)` as the addition `x + ~y + cin` (40_arithmetic.md R151). -/
def subCore (x y : Word) (cin : Bool) : Sum := addCore x (~~~y) cin

/-- `SubCarry(c)` under SUB_CARRY (40_arithmetic.md R151; log 9). -/
def State.subCarry (s : State) (c : Bool) : Bool :=
  match s.params.subCarry with
  | .carryOut => c
  | .borrow => !c

/-- Z of a result (10_state.md R29). -/
def isZero (r : Word) : Bool := decide (r = 0)

/-- N of a result (10_state.md R29). -/
def isNeg (r : Word) : Bool := r.msb

/-- `SetArith(r, cflag, o)`: Z, N, C, O written (40_arithmetic.md R151). -/
def State.setArith (s : State) (r : Word) (c o : Bool) : State :=
  s.setRe { s.re with z := isZero r, n := isNeg r, c := c, o := o }

/-- `SetLogic(r)`: Z and N written (41_logic.md R170). -/
def State.setLogic (s : State) (r : Word) : State := s.setRe { s.re with z := isZero r, n := isNeg r }

/-- `SetShift(r, out)`: Z, N, C written (42_shift.md R180). -/
def State.setShift (s : State) (r : Word) (out : Bool) : State :=
  s.setRe { s.re with z := isZero r, n := isNeg r, c := out }

/-- `SetShift(r, out)` and O, for SHRA and SHLA: O = 1 exactly when the sign bit changed from `v` to `r`
(42_shift.md R183, R184; log 11). -/
def State.setShiftArith (s : State) (v r : Word) (out : Bool) : State :=
  s.setRe { s.re with z := isZero r, n := isNeg r, c := out, o := v.msb ^^ r.msb }

/-- The conditions of the conditional jumps (43_control.md R200; log 12). -/
def condHolds (k : Cond) (f : Flags) : Bool :=
  match k with
  | .z => f.z
  | .nz => !f.z
  | .n => f.n
  | .nn => !f.n
  | .p => !f.n && !f.z
  | .np => f.n || f.z
  | .c => f.c
  | .nc => !f.c
  | .o => f.o
  | .no => !f.o

end Sys2Proof.Machine
end

