-- ==== Sys2Proof/Machine/Operands.lean ====
section
/-! DEFINITION. The operand forms: what the instructions of one shape do with their operands
(30_encoding.md R83; 20_memory.md R52 to R54). -/

namespace Sys2Proof.Machine

/-! ### The register-indirect memory operand `M[Rx]` (44_transfer.md R236) -/

/-- `MemRead(A, 1)`: the word, and the state after the read (20_memory.md R52, R53). -/
def State.memRead (s : State) (addr : Word) : Word × State :=
  if inWindow addr then s.portRead addr else (Memory.word s.dmem (position addr), s)

/-- The data memory replaced. -/
def State.setDmem (s : State) (m : List Host.Cell) : State := { s with dmem := m }

/-- `MemWrite(A, 1, v)` (20_memory.md R52, R54). -/
def State.memWrite (s : State) (addr v : Word) : State :=
  if inWindow addr then s.portWrite addr v else s.setDmem (Memory.setWord s.dmem (position addr) v)

/-! ### Results with their flags -/

/-- A sum written to a register, with Z, N, C, O (40_arithmetic.md R151). -/
def State.putSum (s : State) (d : Reg) (q : Sum) : State := (s.setReg d q.r).setArith q.r q.c q.o

/-- A difference written to a register, with Z, N, O and C under SUB_CARRY (40_arithmetic.md R151). -/
def State.putDiff (s : State) (d : Reg) (q : Sum) : State :=
  (s.setReg d q.r).setArith q.r (s.subCarry q.c) q.o

/-- A logic result written to a register, with Z and N (41_logic.md R170). -/
def State.putLogic (s : State) (d : Reg) (r : Word) : State := (s.setReg d r).setLogic r

/-- A shift result written to a register, with Z, N and C = `out` (42_shift.md R180). -/
def State.putShift (s : State) (d : Reg) (r : Word) (out : Bool) : State := (s.setReg d r).setShift r out

/-- An arithmetic shift result from `v`, with O too (42_shift.md R183, R184). -/
def State.putShiftArith (s : State) (d : Reg) (v r : Word) (out : Bool) : State :=
  (s.setReg d r).setShiftArith v r out

/-- The bit SHRA shifts in under SHRA_FILL (42_shift.md R183; log 10). -/
def State.shraFill (s : State) (v : Word) : Bool :=
  match s.params.shraFill with
  | .zero => false
  | .sign => v.msb

/-- `{b, v[15:1]}`: a right shift by one that brings in `b` (42_shift.md R181). -/
def shiftInLeft (b : Bool) (v : Word) : Word := BitVec.ofBool b ++ v.extractLsb' 1 15

/-- `{v[14:0], b}`: a left shift by one that brings in `b` (42_shift.md R182). -/
def shiftInRight (v : Word) (b : Bool) : Word := v.extractLsb' 0 15 ++ BitVec.ofBool b

/-! ### Control instructions -/

/-- A control instruction: refused in the delay slot of a taken jump (43_control.md R210, U3; log 15),
else `k` of the state whose pc has advanced. -/
def State.control (s : State) (k : State → State) : Host.Outcome State Fault Refusal :=
  if s.ds.isSome then .refused .controlInDelaySlot else .next (k s.advance)

/-- The target of a relative jump of displacement `d`: from the jump's own address (43_control.md R202). -/
def State.relTarget (s : State) (d : BitVec 8) : Word := s.pc + d.signExtend 16

/-- LINK_OFFSET as a number (43_control.md R206; log 14). -/
def linkOffset : Config.LinkOffset → Word
  | .one => 1
  | .two => 2

/-- The link that JAL at the present address writes to R7 (43_control.md R206). -/
def State.link (s : State) : Word := fitPc s.params.pcWidth (s.pc + linkOffset s.params.linkOffset)

/-- A relative jump on a condition (43_control.md R203). -/
def State.branchIf (s : State) (k : Cond) (d : BitVec 8) : Host.Outcome State Fault Refusal :=
  s.control fun s' => if condHolds k s.re then s'.goTo (s.hasSlot .brCond) (s.relTarget d) else s'

/-- An absolute jump on a condition (43_control.md R205). -/
def State.jumpIf (s : State) (k : Cond) (r : Reg) : Host.Outcome State Fault Refusal :=
  s.control fun s' => if condHolds k s.re then s'.goTo (s.hasSlot .jmpCond) (s.reg r) else s'

/-- An absolute jump with link on a condition (43_control.md R207). -/
def State.callIf (s : State) (k : Cond) (r : Reg) : Host.Outcome State Fault Refusal :=
  s.control fun s' =>
    if condHolds k s.re then (s'.setReg .r7 s.link).goTo (s.hasSlot .jalCond) (s.reg r) else s'

end Sys2Proof.Machine
end

