-- ==== Sys2Proof/Machine/Arithmetic.lean ====
section
/-! DEFINITION. The arithmetic instructions (40_arithmetic.md). Each advances pc (10_state.md R28), then writes its
result and Z, C, N, O; sources are read before the destination is written (R160). -/

namespace Sys2Proof.Machine

/-- NEG op: `op <- 0 - op` (40_arithmetic.md R152). -/
def execNeg (op : Reg) (s : State) : Host.Outcome State Fault Refusal :=
  .next (s.advance.putDiff op (subCore 0 (s.reg op) true))

/-- INC op: `op <- op + 1` (40_arithmetic.md R153). -/
def execInc (op : Reg) (s : State) : Host.Outcome State Fault Refusal :=
  .next (s.advance.putSum op (addCore (s.reg op) 1 false))

/-- DEC op: `op <- op - 1` (40_arithmetic.md R154). -/
def execDec (op : Reg) (s : State) : Host.Outcome State Fault Refusal :=
  .next (s.advance.putDiff op (subCore (s.reg op) 1 true))

/-- ADD op1, op2, op3: `op1 <- op2 + op3` (40_arithmetic.md R155). -/
def execAdd (op1 op2 op3 : Reg) (s : State) : Host.Outcome State Fault Refusal :=
  .next (s.advance.putSum op1 (addCore (s.reg op2) (s.reg op3) false))

/-- ADDC op1, op2, op3: `op1 <- op2 + op3 + C` (40_arithmetic.md R156). -/
def execAddc (op1 op2 op3 : Reg) (s : State) : Host.Outcome State Fault Refusal :=
  .next (s.advance.putSum op1 (addCore (s.reg op2) (s.reg op3) s.re.c))

/-- SUB op1, op2, op3: `op1 <- op2 - op3` (40_arithmetic.md R157). -/
def execSub (op1 op2 op3 : Reg) (s : State) : Host.Outcome State Fault Refusal :=
  .next (s.advance.putDiff op1 (subCore (s.reg op2) (s.reg op3) true))

/-- SUBB op1, op2, op3: `op1 <- op2 - op3 - (1 - C)` (40_arithmetic.md R158). -/
def execSubb (op1 op2 op3 : Reg) (s : State) : Host.Outcome State Fault Refusal :=
  .next (s.advance.putDiff op1 (subCore (s.reg op2) (s.reg op3) s.re.c))

/-- CMP op1, op2: the flags of `op1 - op2`; no register is written (40_arithmetic.md R159). -/
def execCmp (op1 op2 : Reg) (s : State) : Host.Outcome State Fault Refusal :=
  let q := subCore (s.reg op1) (s.reg op2) true
  .next (s.advance.setArith q.r (s.subCarry q.c) q.o)

end Sys2Proof.Machine
end

