-- ==== Sys2Proof/Machine/Control.lean ====
section
/-! DEFINITION. The control instructions (43_control.md). The jumps leave pc to the delay slot and set the delayed
target (R201); INT and RTI write pc at once; DELAY_SLOT_SET may say otherwise of any of them (log 13). A register
operand is read before R7 receives the link (R206). -/

namespace Sys2Proof.Machine

/-- BR d: to the jump's own address plus d (43_control.md R202). -/
def execBr (d : BitVec 8) (s : State) : Host.Outcome State Fault Refusal :=
  s.control fun s' => s'.goTo (s.hasSlot .br) (s.relTarget d)

/-- BR.Z d (43_control.md R203, R200). -/
def execBrZ (d : BitVec 8) (s : State) : Host.Outcome State Fault Refusal := s.branchIf .z d

/-- BR.NZ d (43_control.md R203, R200). -/
def execBrNZ (d : BitVec 8) (s : State) : Host.Outcome State Fault Refusal := s.branchIf .nz d

/-- BR.N d (43_control.md R203, R200). -/
def execBrN (d : BitVec 8) (s : State) : Host.Outcome State Fault Refusal := s.branchIf .n d

/-- BR.NN d (43_control.md R203, R200). -/
def execBrNN (d : BitVec 8) (s : State) : Host.Outcome State Fault Refusal := s.branchIf .nn d

/-- BR.P d (43_control.md R203, R200). -/
def execBrP (d : BitVec 8) (s : State) : Host.Outcome State Fault Refusal := s.branchIf .p d

/-- BR.NP d (43_control.md R203, R200). -/
def execBrNP (d : BitVec 8) (s : State) : Host.Outcome State Fault Refusal := s.branchIf .np d

/-- BR.C d (43_control.md R203, R200). -/
def execBrC (d : BitVec 8) (s : State) : Host.Outcome State Fault Refusal := s.branchIf .c d

/-- BR.NC d (43_control.md R203, R200). -/
def execBrNC (d : BitVec 8) (s : State) : Host.Outcome State Fault Refusal := s.branchIf .nc d

/-- BR.O d (43_control.md R203, R200). -/
def execBrO (d : BitVec 8) (s : State) : Host.Outcome State Fault Refusal := s.branchIf .o d

/-- BR.NO d (43_control.md R203, R200). -/
def execBrNO (d : BitVec 8) (s : State) : Host.Outcome State Fault Refusal := s.branchIf .no d

/-- JMP r: to the address in r (43_control.md R204). -/
def execJmp (r : Reg) (s : State) : Host.Outcome State Fault Refusal :=
  s.control fun s' => s'.goTo (s.hasSlot .jmp) (s.reg r)

/-- JMP.Z r (43_control.md R205, R200). -/
def execJmpZ (r : Reg) (s : State) : Host.Outcome State Fault Refusal := s.jumpIf .z r

/-- JMP.NZ r (43_control.md R205, R200). -/
def execJmpNZ (r : Reg) (s : State) : Host.Outcome State Fault Refusal := s.jumpIf .nz r

/-- JMP.N r (43_control.md R205, R200). -/
def execJmpN (r : Reg) (s : State) : Host.Outcome State Fault Refusal := s.jumpIf .n r

/-- JMP.NN r (43_control.md R205, R200). -/
def execJmpNN (r : Reg) (s : State) : Host.Outcome State Fault Refusal := s.jumpIf .nn r

/-- JMP.P r (43_control.md R205, R200). -/
def execJmpP (r : Reg) (s : State) : Host.Outcome State Fault Refusal := s.jumpIf .p r

/-- JMP.NP r (43_control.md R205, R200). -/
def execJmpNP (r : Reg) (s : State) : Host.Outcome State Fault Refusal := s.jumpIf .np r

/-- JMP.C r (43_control.md R205, R200). -/
def execJmpC (r : Reg) (s : State) : Host.Outcome State Fault Refusal := s.jumpIf .c r

/-- JMP.NC r (43_control.md R205, R200). -/
def execJmpNC (r : Reg) (s : State) : Host.Outcome State Fault Refusal := s.jumpIf .nc r

/-- JMP.O r (43_control.md R205, R200). -/
def execJmpO (r : Reg) (s : State) : Host.Outcome State Fault Refusal := s.jumpIf .o r

/-- JMP.NO r (43_control.md R205, R200). -/
def execJmpNO (r : Reg) (s : State) : Host.Outcome State Fault Refusal := s.jumpIf .no r

/-- JAL r: to the address in r, with the link in R7 (43_control.md R206). -/
def execJal (r : Reg) (s : State) : Host.Outcome State Fault Refusal :=
  s.control fun s' => (s'.setReg .r7 s.link).goTo (s.hasSlot .jal) (s.reg r)

/-- JAL.Z r (43_control.md R207, R200). -/
def execJalZ (r : Reg) (s : State) : Host.Outcome State Fault Refusal := s.callIf .z r

/-- JAL.NZ r (43_control.md R207, R200). -/
def execJalNZ (r : Reg) (s : State) : Host.Outcome State Fault Refusal := s.callIf .nz r

/-- JAL.N r (43_control.md R207, R200). -/
def execJalN (r : Reg) (s : State) : Host.Outcome State Fault Refusal := s.callIf .n r

/-- JAL.NN r (43_control.md R207, R200). -/
def execJalNN (r : Reg) (s : State) : Host.Outcome State Fault Refusal := s.callIf .nn r

/-- JAL.P r (43_control.md R207, R200). -/
def execJalP (r : Reg) (s : State) : Host.Outcome State Fault Refusal := s.callIf .p r

/-- JAL.NP r (43_control.md R207, R200). -/
def execJalNP (r : Reg) (s : State) : Host.Outcome State Fault Refusal := s.callIf .np r

/-- JAL.C r (43_control.md R207, R200). -/
def execJalC (r : Reg) (s : State) : Host.Outcome State Fault Refusal := s.callIf .c r

/-- JAL.NC r (43_control.md R207, R200). -/
def execJalNC (r : Reg) (s : State) : Host.Outcome State Fault Refusal := s.callIf .nc r

/-- JAL.O r (43_control.md R207, R200). -/
def execJalO (r : Reg) (s : State) : Host.Outcome State Fault Refusal := s.callIf .o r

/-- JAL.NO r (43_control.md R207, R200). -/
def execJalNO (r : Reg) (s : State) : Host.Outcome State Fault Refusal := s.callIf .no r

/-- RTI: `pc <- PC_E, RE <- RE_E` (43_control.md R208). -/
def execRti (s : State) : Host.Outcome State Fault Refusal := s.control State.leave

/-- INT k: the handler at 7F00h + k is entered, whatever E and IM; the return address is the successor of
the INT (43_control.md R209; 60_exceptions.md R262, R269). -/
def execInt (k : BitVec 8) (s : State) : Host.Outcome State Fault Refusal :=
  s.control fun s' => s'.enter s'.pc (s.hasSlot .int) (intBase + k.setWidth 16)

end Sys2Proof.Machine
end

