-- ==== Sys2Proof/Machine/Generic.lean ====
section
/-! DEFINITION. The generic instructions (45_generic.md). Each advances pc (10_state.md R28). -/

namespace Sys2Proof.Machine

/-- NOP: no effect (45_generic.md R250). -/
def execNop (s : State) : Host.Outcome State Fault Refusal := .next s.advance

/-- ENI: `E <- 1`, used at the next boundary (45_generic.md R251). -/
def execEni (s : State) : Host.Outcome State Fault Refusal := .next (s.advance.setRe { s.re with e := true })

/-- DSI: `E <- 0` (45_generic.md R252). -/
def execDsi (s : State) : Host.Outcome State Fault Refusal := .next (s.advance.setRe { s.re with e := false })

/-- STC: `C <- 1` (45_generic.md R253). -/
def execStc (s : State) : Host.Outcome State Fault Refusal := .next (s.advance.setRe { s.re with c := true })

/-- CLC: `C <- 0` (45_generic.md R254). -/
def execClc (s : State) : Host.Outcome State Fault Refusal := .next (s.advance.setRe { s.re with c := false })

/-- CMC: `C <- 1 - C` (45_generic.md R255). -/
def execCmc (s : State) : Host.Outcome State Fault Refusal := .next (s.advance.setRe { s.re with c := !s.re.c })

end Sys2Proof.Machine
end

