-- ==== Sys2Proof/Machine/Logic.lean ====
section
/-! DEFINITION. The logic instructions (41_logic.md). Each advances pc (10_state.md R28), then writes its result
and Z, N; C and O keep their values (R170). AND, OR and XOR follow the action lines (90_conflicts.md C4; log 45). -/

namespace Sys2Proof.Machine

/-- COM op: the bitwise complement (41_logic.md R171). -/
def execCom (op : Reg) (s : State) : Host.Outcome State Fault Refusal :=
  .next (s.advance.putLogic op (~~~(s.reg op)))

/-- AND op1, op2, op3: the bitwise and (41_logic.md R172). -/
def execAnd (op1 op2 op3 : Reg) (s : State) : Host.Outcome State Fault Refusal :=
  .next (s.advance.putLogic op1 (s.reg op2 &&& s.reg op3))

/-- OR op1, op2, op3: the bitwise or (41_logic.md R173). -/
def execOr (op1 op2 op3 : Reg) (s : State) : Host.Outcome State Fault Refusal :=
  .next (s.advance.putLogic op1 (s.reg op2 ||| s.reg op3))

/-- XOR op1, op2, op3: the bitwise exclusive or (41_logic.md R174). -/
def execXor (op1 op2 op3 : Reg) (s : State) : Host.Outcome State Fault Refusal :=
  .next (s.advance.putLogic op1 (s.reg op2 ^^^ s.reg op3))

/-- TEST op1, op2: the flags of the bitwise and; no register is written (41_logic.md R175). -/
def execTest (op1 op2 : Reg) (s : State) : Host.Outcome State Fault Refusal :=
  .next (s.advance.setLogic (s.reg op1 &&& s.reg op2))

end Sys2Proof.Machine
end

