-- ==== Sys2Proof/Machine/Shift.lean ====
section
/-! DEFINITION. The shift and rotate instructions (42_shift.md). Each advances pc (10_state.md R28), then moves its
register by one position and writes Z, N and C, the bit that left; SHRA and SHLA write O too (R180). -/

namespace Sys2Proof.Machine

/-- SHR op: right, 0 in (42_shift.md R181). -/
def execShr (op : Reg) (s : State) : Host.Outcome State Fault Refusal :=
  let v := s.reg op
  .next (s.advance.putShift op (shiftInLeft false v) (v.getLsbD 0))

/-- SHL op: left, 0 in (42_shift.md R182). -/
def execShl (op : Reg) (s : State) : Host.Outcome State Fault Refusal :=
  let v := s.reg op
  .next (s.advance.putShift op (shiftInRight v false) (v.getLsbD 15))

/-- SHRA op: right, SHRA_FILL in; O set when the sign changed; log 10, log 11 (42_shift.md R183). -/
def execShra (op : Reg) (s : State) : Host.Outcome State Fault Refusal :=
  let v := s.reg op
  .next (s.advance.putShiftArith op v (shiftInLeft (s.shraFill v) v) (v.getLsbD 0))

/-- SHLA op: left, 0 in; O set when the sign changed; log 11 (42_shift.md R184). -/
def execShla (op : Reg) (s : State) : Host.Outcome State Fault Refusal :=
  let v := s.reg op
  .next (s.advance.putShiftArith op v (shiftInRight v false) (v.getLsbD 15))

/-- ROR op: right, bit 0 to bit 15 (42_shift.md R185). -/
def execRor (op : Reg) (s : State) : Host.Outcome State Fault Refusal :=
  let v := s.reg op
  .next (s.advance.putShift op (shiftInLeft (v.getLsbD 0) v) (v.getLsbD 0))

/-- ROL op: left, bit 15 to bit 0 (42_shift.md R186). -/
def execRol (op : Reg) (s : State) : Host.Outcome State Fault Refusal :=
  let v := s.reg op
  .next (s.advance.putShift op (shiftInRight v (v.getLsbD 15)) (v.getLsbD 15))

/-- RORC op: right, C in (42_shift.md R187). -/
def execRorc (op : Reg) (s : State) : Host.Outcome State Fault Refusal :=
  let v := s.reg op
  .next (s.advance.putShift op (shiftInLeft s.re.c v) (v.getLsbD 0))

/-- ROLC op: left, C in (42_shift.md R188). -/
def execRolc (op : Reg) (s : State) : Host.Outcome State Fault Refusal :=
  let v := s.reg op
  .next (s.advance.putShift op (shiftInRight v s.re.c) (v.getLsbD 15))

end Sys2Proof.Machine
end

