-- ==== Sys2Proof/Machine/Transfer.lean ====
section
/-! DEFINITION. The transfer instructions (44_transfer.md). Each advances pc (10_state.md R28) and writes no status bit. -/

namespace Sys2Proof.Machine

/-- MOV op1, op2: `op1 <- op2` (44_transfer.md R230). -/
def execMov (op1 op2 : Reg) (s : State) : Host.Outcome State Fault Refusal :=
  .next (s.advance.setReg op1 (s.reg op2))

/-- LOAD op1, M[Rx]: one read of the data space at the address in Rx, performed also when op1 is R0
(44_transfer.md R231; 20_memory.md R53, R58). -/
def execLoad (op1 rx : Reg) (s : State) : Host.Outcome State Fault Refusal :=
  let m := s.advance.memRead (s.reg rx)
  .next (m.2.setReg op1 m.1)

/-- STOR M[Rx], op2: one write of the data space at the address in Rx (44_transfer.md R232; 20_memory.md R54, R58). -/
def execStor (rx op2 : Reg) (s : State) : Host.Outcome State Fault Refusal :=
  .next (s.advance.memWrite (s.reg rx) (s.reg op2))

/-- MVI op1, c: all 16 bits receive the constant (44_transfer.md R233; 30_encoding.md R94; log 27). -/
def execMvi (op1 : Reg) (c : BitVec 9) (s : State) : Host.Outcome State Fault Refusal :=
  .next (s.advance.setReg op1 (c.signExtend 16))

/-- MVIH op1, b: `op1 <- (op1 & 00FFh) | (b << 8)` (44_transfer.md R234; 90_conflicts.md C6; log 27). -/
def execMvih (op1 : Reg) (b : BitVec 8) (s : State) : Host.Outcome State Fault Refusal :=
  .next (s.advance.setReg op1 ((s.reg op1 &&& 0x00FF#16) ||| (b.setWidth 16 <<< 8)))

/-- MVIL op1, b: `op1 <- (op1 & FF00h) | b` (44_transfer.md R235; log 27). -/
def execMvil (op1 : Reg) (b : BitVec 8) (s : State) : Host.Outcome State Fault Refusal :=
  .next (s.advance.setReg op1 ((s.reg op1 &&& 0xFF00#16) ||| b.setWidth 16))

end Sys2Proof.Machine
end

