-- ==== Sys2Proof/Machine/Dispatch.lean ====
section
/-! DEFINITION. The dispatch: one arm per constructor of Instr, each one call of its meaning. -/

namespace Sys2Proof.Machine

/-- The meaning of an instruction at a boundary where pc is its own address `a` (10_state.md R28, step 3 and 4). -/
def exec (i : Instr) (s : State) : Host.Outcome State Fault Refusal :=
  match i with
  | .nop => Sys2Proof.Machine.execNop s
  | .eni => Sys2Proof.Machine.execEni s
  | .dsi => Sys2Proof.Machine.execDsi s
  | .stc => Sys2Proof.Machine.execStc s
  | .clc => Sys2Proof.Machine.execClc s
  | .cmc => Sys2Proof.Machine.execCmc s
  | .rti => Sys2Proof.Machine.execRti s
  | .int k => Sys2Proof.Machine.execInt k s
  | .add op1 op2 op3 => Sys2Proof.Machine.execAdd op1 op2 op3 s
  | .addc op1 op2 op3 => Sys2Proof.Machine.execAddc op1 op2 op3 s
  | .sub op1 op2 op3 => Sys2Proof.Machine.execSub op1 op2 op3 s
  | .subb op1 op2 op3 => Sys2Proof.Machine.execSubb op1 op2 op3 s
  | .and op1 op2 op3 => Sys2Proof.Machine.execAnd op1 op2 op3 s
  | .or op1 op2 op3 => Sys2Proof.Machine.execOr op1 op2 op3 s
  | .xor op1 op2 op3 => Sys2Proof.Machine.execXor op1 op2 op3 s
  | .cmp op1 op2 => Sys2Proof.Machine.execCmp op1 op2 s
  | .test op1 op2 => Sys2Proof.Machine.execTest op1 op2 s
  | .neg op => Sys2Proof.Machine.execNeg op s
  | .inc op => Sys2Proof.Machine.execInc op s
  | .dec op => Sys2Proof.Machine.execDec op s
  | .com op => Sys2Proof.Machine.execCom op s
  | .shr op => Sys2Proof.Machine.execShr op s
  | .shl op => Sys2Proof.Machine.execShl op s
  | .shra op => Sys2Proof.Machine.execShra op s
  | .shla op => Sys2Proof.Machine.execShla op s
  | .ror op => Sys2Proof.Machine.execRor op s
  | .rol op => Sys2Proof.Machine.execRol op s
  | .rorc op => Sys2Proof.Machine.execRorc op s
  | .rolc op => Sys2Proof.Machine.execRolc op s
  | .mov op1 op2 => Sys2Proof.Machine.execMov op1 op2 s
  | .load op1 rx => Sys2Proof.Machine.execLoad op1 rx s
  | .stor rx op2 => Sys2Proof.Machine.execStor rx op2 s
  | .mvi op1 c => Sys2Proof.Machine.execMvi op1 c s
  | .mvih op1 b => Sys2Proof.Machine.execMvih op1 b s
  | .mvil op1 b => Sys2Proof.Machine.execMvil op1 b s
  | .br d => Sys2Proof.Machine.execBr d s
  | .brZ d => Sys2Proof.Machine.execBrZ d s
  | .brNZ d => Sys2Proof.Machine.execBrNZ d s
  | .brN d => Sys2Proof.Machine.execBrN d s
  | .brNN d => Sys2Proof.Machine.execBrNN d s
  | .brP d => Sys2Proof.Machine.execBrP d s
  | .brNP d => Sys2Proof.Machine.execBrNP d s
  | .brC d => Sys2Proof.Machine.execBrC d s
  | .brNC d => Sys2Proof.Machine.execBrNC d s
  | .brO d => Sys2Proof.Machine.execBrO d s
  | .brNO d => Sys2Proof.Machine.execBrNO d s
  | .jmp r => Sys2Proof.Machine.execJmp r s
  | .jmpZ r => Sys2Proof.Machine.execJmpZ r s
  | .jmpNZ r => Sys2Proof.Machine.execJmpNZ r s
  | .jmpN r => Sys2Proof.Machine.execJmpN r s
  | .jmpNN r => Sys2Proof.Machine.execJmpNN r s
  | .jmpP r => Sys2Proof.Machine.execJmpP r s
  | .jmpNP r => Sys2Proof.Machine.execJmpNP r s
  | .jmpC r => Sys2Proof.Machine.execJmpC r s
  | .jmpNC r => Sys2Proof.Machine.execJmpNC r s
  | .jmpO r => Sys2Proof.Machine.execJmpO r s
  | .jmpNO r => Sys2Proof.Machine.execJmpNO r s
  | .jal r => Sys2Proof.Machine.execJal r s
  | .jalZ r => Sys2Proof.Machine.execJalZ r s
  | .jalNZ r => Sys2Proof.Machine.execJalNZ r s
  | .jalN r => Sys2Proof.Machine.execJalN r s
  | .jalNN r => Sys2Proof.Machine.execJalNN r s
  | .jalP r => Sys2Proof.Machine.execJalP r s
  | .jalNP r => Sys2Proof.Machine.execJalNP r s
  | .jalC r => Sys2Proof.Machine.execJalC r s
  | .jalNC r => Sys2Proof.Machine.execJalNC r s
  | .jalO r => Sys2Proof.Machine.execJalO r s
  | .jalNO r => Sys2Proof.Machine.execJalNO r s

end Sys2Proof.Machine
end

