-- ==== Sys2Proof/Machine/Cycle.lean ====
section
/-! DEFINITION. The instruction cycle (10_state.md R28). -/

namespace Sys2Proof.Machine

/-- Fetch, decode and execute at a boundary where no interrupt is taken. A position the host did not load
and a reserved word are refused (U2, U1; log 25). -/
def State.runInstruction (s : State) : Host.Outcome State Fault Refusal :=
  match s.fetchWord with
  | none => .refused .unloadedProgram
  | some w =>
    match decodeBy s.params.encoding w with
    | .error why => .refused (.reservedWord why)
    | .ok i => exec i s

/-- One step: the host's events, then the interrupt acceptance test, then either an interrupt entry or one
instruction (10_state.md R28; 60_exceptions.md R267). -/
def State.cycle (s : State) : Host.Outcome State Fault Refusal :=
  match s.deliver.accepted with
  | some v => .next (s.deliver.takeInterrupt v)
  | none => s.deliver.runInstruction

end Sys2Proof.Machine
end

