-- ==== Sys2Proof/Machine/Step.lean ====
section
/-! DEFINITION. The step of the machine, and where the next instruction is fetched. -/

namespace Sys2Proof.Machine

/-- One step of the P4 (10_state.md R28): a next state or a refusal. -/
def step (s : State) : Host.Outcome State Fault Refusal := s.cycle

/-- The state with the instruction of bits `w` at the position the next fetch reads. It stands for the
host's load of a program (log 3); the next step runs it where no host event waits and no request is
takeable, as at reset. -/
def State.withFetchWord (s : State) (nbits w : Nat) : State :=
  s.placeAtPc (BitVec.ofNat 16 (w % 2 ^ nbits))

end Sys2Proof.Machine
end

