-- ==== Sys2Proof/Machine/Simulator.lean ====
section
/-! DEFINITION. The host: loading, the simulator's controls, what it can observe, and the result of a run
(80_host_simulator.md R380 to R391; log 42). Nothing here is part of the processor. -/

namespace Sys2Proof.Machine

/-! ### Loading (R389, R70) -/

/-- An assembled image: words at 16-bit addresses. -/
abbrev Image := List (Word × Word)

/-- A memory with an image placed in it, word by word (80_host_simulator.md R389; 20_memory.md R70). A word goes to
the position that the low 15 bits of its address select, a data word at FF00h to FFFFh too (log 53). -/
def Memory.load (m : List Host.Cell) (image : Image) : List Host.Cell :=
  image.foldl (fun m x => Memory.setWord m (position x.1) x.2) m

/-- The machine with the program and the data image loaded; registers and devices are as they were. -/
def State.load (s : State) (program data : Image) : State :=
  { s with pmem := Memory.load s.pmem program, dmem := Memory.load s.dmem data }

/-- Which source line each word of a program image came from: addresses with line numbers, in the order of the
lines and, within one, of its words (80_host_simulator.md R386, R387). -/
abbrev SourceMap := List (Word × Nat)

/-- The first address that a line assembled to, none for a line with no instruction (80_host_simulator.md R386). -/
def SourceMap.address (src : SourceMap) (line : Nat) : Option Word :=
  (src.find? fun x => x.2 == line).map Prod.fst

/-- The line that the instruction at a program address came from. -/
def SourceMap.lineAt (src : SourceMap) (addr : Word) : Option Nat :=
  (src.find? fun x => position x.1 == position addr).map Prod.snd

/-! ### What the host can observe (R387, R341) -/

/-- RI, the value of the instruction being executed (80_host_simulator.md R387; 30_encoding.md R81). At a boundary none is,
and RI is the word at pc, which the next fetch reads (log 57). -/
def State.ri (s : State) : Option Word := s.fetchWord

/-- The register panel: PC, R1 to R7, the status register and RI (80_host_simulator.md R387). -/
structure Panel where
  pc : Word
  regs : Regs
  re : Flags
  ri : Option Word
deriving DecidableEq, Repr

/-- The register panel of a state. -/
def State.panel (s : State) : Panel := { pc := s.pc, regs := s.regs, re := s.re, ri := s.ri }

/-- The status bits in the order of the display: E, Z, C, N, O as bits 4 to 0 (10_state.md R31; log 43). -/
def Flags.display (f : Flags) : BitVec 5 :=
  BitVec.ofBool f.e ++ BitVec.ofBool f.z ++ BitVec.ofBool f.c ++ BitVec.ofBool f.n ++ BitVec.ofBool f.o

/-- `count` positions from a chosen first address on. -/
def positionsFrom (first : Word) (count : Nat) : List Nat :=
  (List.range count).map fun k => position (first + BitVec.ofNat 16 k)

/-- The panel of program memory, none at a position not loaded (80_host_simulator.md R387). -/
def State.programPanel (s : State) (first : Word) (count : Nat) : List (Option Word) :=
  (positionsFrom first count).map (Memory.loadedWord s.pmem)

/-- The panel of data memory (80_host_simulator.md R387). -/
def State.dataPanel (s : State) (first : Word) (count : Nat) : List Word :=
  (positionsFrom first count).map (Memory.word s.dmem)

/-- The peripherals panel: the text of the LCD and of the terminal cell by cell, none where blank, the displays
and the LEDs (80_host_simulator.md R387). -/
structure Peripherals where
  lcdOn : Bool
  lcd : List (Option Byte)
  terminal : List (Option TermCell)
  disp : Displays
  led : BitVec 10
deriving DecidableEq, Repr

/-- The peripherals panel of a state. -/
def State.peripherals (s : State) : Peripherals :=
  { lcdOn := s.dev.lcd.on
    lcd := (List.range 32).map (sparseRead s.dev.lcd.cells)
    terminal := (List.range 3600).map s.dev.term.cell
    disp := s.dev.disp
    led := s.dev.led }

/-- The source line of the next instruction, which the simulator shades (80_host_simulator.md R387). -/
def State.nextLine (s : State) (src : SourceMap) : Option Nat := src.lineAt s.pc

/-- The port write an instruction performs: a STOR whose address lies in the window, whichever port it is (61_io_devices.md
R341; log 56). -/
def portWriteBy (i : Instr) (s : State) : Option (Word × Word) :=
  match i with
  | .stor rx op2 => if inWindow (s.reg rx) then some (s.reg rx, s.reg op2) else none
  | _ => none

/-- The port write that the next step performs, if any. -/
def State.portWriteNext (s : State) : Option (Word × Word) :=
  match s.deliver.accepted, s.deliver.fetchWord with
  | none, some w =>
    match decodeBy s.deliver.params.encoding w with
    | .ok i => portWriteBy i s.deliver
    | .error _ => none
  | _, _ => none

/-- The observable output of a run: the port writes in program order, and the final state (80_host_simulator.md
R390; 61_io_devices.md R341). -/
structure RunResult where
  writes : List (Word × Word)
  final : State
deriving DecidableEq, Repr

/-- A result with the port write of an earlier step put before its own. -/
def RunResult.after (w : Option (Word × Word)) (r : RunResult) : RunResult := { r with writes := w.toList ++ r.writes }

/-- The result of `n` steps. A run with a refused step has none (80_host_simulator.md R390, case 3). -/
def State.observe : Nat → State → Host.Outcome RunResult Fault Refusal
  | 0, s => .next { writes := [], final := s }
  | n + 1, s =>
    match step s with
    | .next t =>
      match State.observe n t with
      | .next r => .next (r.after s.portWriteNext)
      | .fault f => .fault f
      | .refused why => .refused why
    | .fault f => .fault f
    | .refused why => .refused why

/-! ### Controls (R381 to R386) -/

/-- The simulator. -/
structure Sim where
  machine : State
  running : Bool
  /-- the program positions with a breakpoint -/
  breakpoints : List Nat
  /-- the breakpoint at the present boundary has already stopped the machine there -/
  passed : Bool
  /-- clock periods simulated since the start or the last reset (80_host_simulator.md R385; 10_state.md R40) -/
  clock : Nat
  /-- the model's own count of the steps performed, which numbers the free clock periods (log 34) -/
  steps : Nat
deriving DecidableEq, Repr

/-- Start: the machine runs on from the state it is in (80_host_simulator.md R381, R386). -/
def Sim.start (m : Sim) : Sim := { m with running := true }

/-- Stop: the machine stops at a boundary and keeps all its state (80_host_simulator.md R382). -/
def Sim.stop (m : Sim) : Sim := { m with running := false }

/-- A breakpoint at the position of a program address (80_host_simulator.md R386; log 42). -/
def Sim.setBreakpoint (m : Sim) (addr : Word) : Sim :=
  { m with breakpoints := position addr :: m.breakpoints }

/-- A breakpoint on a source line: at the first address it assembled to, and nothing for a line with no instruction
(80_host_simulator.md R386; log 42). -/
def Sim.breakAtLine (m : Sim) (src : SourceMap) (line : Nat) : Sim :=
  match src.address line with
  | some addr => m.setBreakpoint addr
  | none => m

/-- The machine after a Reset: the reset state, a clock counter of 0 and a breakpoint at its pc still to stop at.
The memories, switches, accelerometer and breakpoints are kept (80_host_simulator.md R384, R385, R386), and a
running simulator keeps running (log 52). -/
def Sim.resetNow (m : Sim) : Sim := { m with machine := m.machine.hostReset, passed := false, clock := 0 }

/-- One host event applied at the present boundary (80_host_simulator.md R388). -/
def Sim.applyEvent (m : Sim) (e : HostEvent) : Sim :=
  match e with
  | .reset => m.resetNow
  | e => { m with machine := m.machine.applyEvent e }

/-- The events that wait at this boundary applied; those of later boundaries keep their place. Step 1 of the
instruction cycle then finds nothing to do (10_state.md R28). -/
def Sim.deliverNow (m : Sim) : Sim :=
  match m.machine.inputs with
  | [] => m
  | events :: later => events.foldl Sim.applyEvent { m with machine := { m.machine with inputs := [] :: later } }

/-- An input event given at the present boundary: it is applied after those that waited there (80_host_simulator.md
R388). No timer tick is delivered while the simulator is stopped (R382, decision D29). -/
def Sim.give (m : Sim) (e : HostEvent) : Sim :=
  if e = .tick ∧ m.running = false then m else m.deliverNow.applyEvent e

/-- Reset, which may be pressed in any state of the simulator (80_host_simulator.md R384). -/
def Sim.reset (m : Sim) : Sim := m.give .reset

/-- The simulator after a step of its machine to `s`: the counter advances by a free number of periods,
since no rule says how many a step takes (80_host_simulator.md R385; U17; log 34). -/
def Sim.after (m : Sim) (s : State) : Sim :=
  { m with
    machine := s
    passed := false
    clock := m.clock + Config.stepClocks m.steps
    steps := m.steps + 1 }

/-- One step of the machine, an instruction or an interrupt entry, at a boundary whose events are applied. -/
def Sim.advance (m : Sim) : Host.Outcome Sim Fault Refusal :=
  match step m.machine with
  | .next s => .next (m.after s)
  | .fault r => .fault r
  | .refused r => .refused r

/-- Whether the machine stands immediately before an instruction with a breakpoint at which it has not yet
stopped (80_host_simulator.md R386). -/
def Sim.atBreakpoint (m : Sim) : Bool := !m.passed && decide (position m.machine.pc ∈ m.breakpoints)

/-- Step: one step of the machine whatever the breakpoints are (80_host_simulator.md R383). Pressed while the simulator
runs, which the spec does not describe, it also stops it (log 55). -/
def Sim.stepOnce (m : Sim) : Host.Outcome Sim Fault Refusal := m.deliverNow.stop.advance

/-- What a running simulator does at a boundary whose events are applied: it stops immediately before an instruction
with a breakpoint, once, else it performs one step (80_host_simulator.md R381, R386). -/
def Sim.stopOrAdvance (m : Sim) : Host.Outcome Sim Fault Refusal :=
  if m.atBreakpoint then .next { m with running := false, passed := true } else m.advance

/-- What the simulator does next. The events of the boundary come before the test for a breakpoint (log 51); a
stopped simulator does nothing. -/
def Sim.proceed (m : Sim) : Host.Outcome Sim Fault Refusal :=
  if m.running then m.deliverNow.stopOrAdvance else .next m

end Sys2Proof.Machine
end

