-- ==== Sys2Proof/Machine/Assembler.lean ====
section
/-! DEFINITION. The assembler: constants, labels, directives, pseudo-instructions and the images it makes
(35_assembler.md; log 38 to 41, log 47 to 50, log 54, log 58, log 59). It is toolchain, not processor: what it makes is loaded by
Simulator.lean. A source is the list of its lines after lexing (R110, R112); case and white space are not in the
source (91_not_in_source.md N7; log 40). -/

namespace Sys2Proof.Machine

/-! ### Constants (R113 to R115) -/

/-- The value of a digit in a base. -/
def digitVal (base : Nat) (ch : Char) : Option Nat :=
  let n := ch.toNat
  let v := if 48 ≤ n ∧ n ≤ 57 then n - 48 else if 65 ≤ n ∧ n ≤ 70 then n - 55 else base
  if v < base then some v else none

/-- The number that digits in a base write after the value `acc`. -/
def digitsFrom (base : Nat) : Nat → List Char → Option Nat
  | acc, [] => some acc
  | acc, ch :: cs => (digitVal base ch).bind fun v => digitsFrom base (base * acc + v) cs

/-- At least one digit. -/
def digits (base : Nat) : List Char → Option Nat
  | [] => none
  | cs => digitsFrom base 0 cs

/-- An unsigned number with its suffix h, b, o, d or none (35_assembler.md R113). A hexadecimal one may begin with a letter
(log 58). -/
def unsignedConst (cs : List Char) : Option Nat :=
  match cs.getLast? with
  | some 'h' => digits 16 cs.dropLast
  | some 'b' => digits 2 cs.dropLast
  | some 'o' => digits 8 cs.dropLast
  | some 'd' => digits 10 cs.dropLast
  | _ => digits 10 cs

/-- The code of a character (35_assembler.md R114): ASCII from 20h to 7Eh, the source's example É, and a
free value for every other character (log 41). -/
def charWord (enc : Config.CharEncoding) (ch : Char) : Word :=
  if 0x20 ≤ ch.toNat ∧ ch.toNat ≤ 0x7E then BitVec.ofNat 16 ch.toNat
  else if ch = 'É' then (match enc with | .ascii => 0x0090 | .unicode => 0x00C9)
  else Config.charCode enc ch

/-- Whether a constant is in the range every base shares (35_assembler.md R113, R115; 90_conflicts.md C8). -/
def inConstRange (c : Int) : Bool := decide (-32768 ≤ c ∧ c ≤ 65535)

/-- A label: global, or local to the last global label (35_assembler.md R118, R119). A reference to
another label's local one, `Rotina1.Loop`, is the global name with the point in it. -/
inductive Label where
  | global (name : String)
  | loc (name : String)
deriving DecidableEq, Repr

/-- A constant: a number or a character, whose code is that of the encoding in force where it stands (35_assembler.md
R113, R114, R129); or a symbol (R117). -/
inductive Expr where
  | const (c : Int)
  | char (ch : Char)
  | sym (l : Label)
deriving DecidableEq, Repr

/-- A written constant (35_assembler.md R113, R114; log 58). -/
def parseConst (cs : List Char) : Option Expr :=
  let number (v : Option Int) := (v.filter inConstRange).map Expr.const
  match cs with
  | ['\'', ch, '\''] => some (.char ch)
  | '-' :: ds => number ((unsignedConst ds).map fun n => -(n : Int))
  | ds => number ((unsignedConst ds).map fun n => (n : Int))

/-- A text between apostrophes: two consecutive ones stand for one (35_assembler.md R127). -/
def unquote : List Char → List Char
  | '\'' :: '\'' :: cs => '\'' :: unquote cs
  | ch :: cs => ch :: unquote cs
  | [] => []

/-! ### Source lines (R110 to R112, R116 to R129) -/

/-- An instruction as written: one whose operands are registers only (or already a machine instruction), or
one with a constant or a label (35_assembler.md R111). -/
inductive AsmInstr where
  | plain (i : Instr)
  | mvi (op1 : Reg) (e : Expr)
  | mvih (op1 : Reg) (e : Expr)
  | mvil (op1 : Reg) (e : Expr)
  | br (k : Option Cond) (e : Expr)
  | jmp (k : Option Cond) (target : Label)
  | jal (k : Option Cond) (target : Label)
  | int (e : Expr)
deriving DecidableEq, Repr

/-- The options of OPT (35_assembler.md R129). -/
inductive AsmOption where
  | enableDelaySlots
  | disableDelaySlots
  | ascii
  | unicode
deriving DecidableEq, Repr

/-- An operand of STR (35_assembler.md R127). -/
inductive StrItem where
  | text (cs : List Char)
  | const (e : Expr)
deriving DecidableEq, Repr

/-- An instruction or a directive (35_assembler.md R123 to R129). -/
inductive Stmt where
  | instr (m : AsmInstr)
  | orig (e : Expr)
  | equ (name : String) (e : Expr)
  | word (name : String) (e : Expr)
  | str (name : String) (items : List StrItem)
  | tab (name : String) (e : Expr)
  | opt (o : AsmOption)
deriving DecidableEq, Repr

/-- A line: a label, an instruction or directive, a comment, each of them optional (35_assembler.md R110, R122). -/
structure Line where
  label : Option Label := none
  stmt : Option Stmt := none
  comment : Option String := none
deriving DecidableEq, Repr

/-- Why a line cannot be assembled (35_assembler.md R136). -/
inductive AsmError where
  | constantRange      -- a constant outside the range of its instruction (R111, R115)
  | outOfReach         -- a relative jump whose label is out of reach (R121)
  | overlap            -- a position that an earlier line has taken (R124)
  | badSymbol          -- a symbol that breaks R131
  | duplicateSymbol    -- a symbol defined twice
  | undefinedSymbol    -- a symbol defined nowhere
  | noValue            -- a symbol defined through itself only or by a line in error, or a distance from an unknown place
  | noWord             -- an instruction that the ENCODING gives no word
  | unsettled          -- a symbol whose value the sizes of the expansions leave open (log 39)
deriving DecidableEq, Repr

/-- Letters, digits and `_`, the first no digit (35_assembler.md R131), of any length (log 54). The name of a local label is
checked without its point, so it has no leading digit either (log 54). -/
def validSymbol (cs : List Char) : Bool :=
  match cs with
  | [] => false
  | ch :: _ => !ch.isDigit && cs.all fun x => x.isAlphanum && decide (x.toNat < 128) || x == '_'

/-! ### Expansion (R120, R121, R132 to R134) -/

/-- The relative jump with a condition, none for always (30_encoding.md R98). -/
def brOf (k : Option Cond) (d : BitVec 8) : Instr :=
  match k with
  | none => .br d
  | some .z => .brZ d
  | some .nz => .brNZ d
  | some .n => .brN d
  | some .nn => .brNN d
  | some .p => .brP d
  | some .np => .brNP d
  | some .c => .brC d
  | some .nc => .brNC d
  | some .o => .brO d
  | some .no => .brNO d

/-- The absolute jump with a condition, none for always (30_encoding.md R98). -/
def jmpOf (k : Option Cond) (r : Reg) : Instr :=
  match k with
  | none => .jmp r
  | some .z => .jmpZ r
  | some .nz => .jmpNZ r
  | some .n => .jmpN r
  | some .nn => .jmpNN r
  | some .p => .jmpP r
  | some .np => .jmpNP r
  | some .c => .jmpC r
  | some .nc => .jmpNC r
  | some .o => .jmpO r
  | some .no => .jmpNO r

/-- The jump with link with a condition, none for always (30_encoding.md R98). -/
def jalOf (k : Option Cond) (r : Reg) : Instr :=
  match k with
  | none => .jal r
  | some .z => .jalZ r
  | some .nz => .jalNZ r
  | some .n => .jalN r
  | some .nn => .jalNN r
  | some .p => .jalP r
  | some .np => .jalNP r
  | some .c => .jalC r
  | some .nc => .jalNC r
  | some .o => .jalO r
  | some .no => .jalNO r

/-- The kind of a control instruction, as DELAY_SLOT_SET lists them (00_scope.md R9). -/
def controlKind : Instr → Option Config.ControlKind
  | .br _ => some .br
  | .brZ _ | .brNZ _ | .brN _ | .brNN _ | .brP _ | .brNP _ | .brC _ | .brNC _ | .brO _ | .brNO _ => some .brCond
  | .jmp _ => some .jmp
  | .jmpZ _ | .jmpNZ _ | .jmpN _ | .jmpNN _ | .jmpP _ | .jmpNP _ | .jmpC _ | .jmpNC _ | .jmpO _ | .jmpNO _ =>
    some .jmpCond
  | .jal _ => some .jal
  | .jalZ _ | .jalNZ _ | .jalN _ | .jalNN _ | .jalP _ | .jalNP _ | .jalC _ | .jalNC _ | .jalO _ | .jalNO _ =>
    some .jalCond
  | .int _ => some .int
  | .rti => some .rti
  | _ => none

/-- The pair MVIH, MVIL that loads a whole word, in the order MVI_PAIR_ORDER (35_assembler.md R132; log 38). -/
def mviPair (order : Config.MviPairOrder) (r : Reg) (w : Word) : List Instr :=
  match order with
  | .highFirst => [.mvih r (w.extractLsb' 8 8), .mvil r (w.extractLsb' 0 8)]
  | .lowFirst => [.mvil r (w.extractLsb' 0 8), .mvih r (w.extractLsb' 8 8)]

/-- `MVI op1, c`: one instruction for -128 to 255, else the pair (35_assembler.md R132; 44_transfer.md R233). -/
def expandMvi (order : Config.MviPairOrder) (r : Reg) (c : Int) : List Instr :=
  if -128 ≤ c ∧ c ≤ 255 then [.mvi r (BitVec.ofInt 9 c)] else mviPair order r (BitVec.ofInt 16 c)

/-! ### Symbols (R117 to R119) -/

/-- What a symbol names: an address (an instruction label, WORD, STR, TAB) or a constant (EQU) (35_assembler.md R117).
The two differ as the operand of BR only (log 49). -/
inductive SymbolKind where
  | address
  | constant
deriving DecidableEq, Repr

/-- The value of an operand, and what it names. -/
structure SymbolValue where
  kind : SymbolKind
  value : Int
deriving DecidableEq, Repr

/-- A constant's value. -/
def SymbolValue.const (c : Int) : SymbolValue := { kind := .constant, value := c }

/-- An address as a value. -/
def SymbolValue.addr (a : Word) : SymbolValue := { kind := .address, value := (a.toNat : Int) }

/-- Symbols and their values, none while it is not known. -/
abbrev Symbols := List (String × Option SymbolValue)

/-- The full name of a label after the global label `owner` (35_assembler.md R119). -/
def fullName (owner : String) : Label → String
  | .global name => name
  | .loc name => owner ++ "." ++ name

/-- How the assembler is set at a line: its parameters, the OPT options in force, the location counter (none after
an ORIG or TAB whose operand is not known), the last global label, all symbols as the last pass found them, and the
symbols that this pass has found so far (35_assembler.md R117, R119, R129, R130, R137). -/
structure AsmState where
  params : Config.AsmParams
  slots : Bool
  enc : Config.CharEncoding
  loc : Option Word
  owner : String
  syms : Symbols
  found : Symbols
deriving DecidableEq, Repr

/-- Before the first line: delay slots disabled, ASCII, location 0000h (35_assembler.md R130, R137). There is no last
global label; a local label there is one of the empty name (log 47). -/
def AsmState.initial (params : Config.AsmParams) (syms : Symbols) : AsmState :=
  { params := params, slots := false, enc := .ascii, loc := some 0, owner := "", syms := syms, found := [] }

/-- An option taking effect (35_assembler.md R129; log 40). -/
def AsmState.setOption (st : AsmState) : AsmOption → AsmState
  | .enableDelaySlots => { st with slots := true }
  | .disableDelaySlots => { st with slots := false }
  | .ascii => { st with enc := .ascii }
  | .unicode => { st with enc := .unicode }

/-- The last global label after a line's label (35_assembler.md R119). The name of a WORD, STR, TAB or EQU does not
become one (log 47). -/
def AsmState.enterLabel (st : AsmState) : Option Label → AsmState
  | some (.global name) => { st with owner := name }
  | _ => st

/-- The location counter moved on by `n` positions, from FFFFh to 0000h (log 48). -/
def AsmState.skip (st : AsmState) (n : Nat) : AsmState :=
  { st with loc := st.loc.map fun a => a + BitVec.ofNat 16 n }

/-- The value of a constant, in the common range, or of a symbol, wherever in the source it is defined
(35_assembler.md R114, R115, R117). -/
def AsmState.eval (st : AsmState) : Expr → Except AsmError SymbolValue
  | .const c => if inConstRange c then .ok (.const c) else .error .constantRange
  | .char ch => .ok (.const ((charWord st.enc ch).toNat : Int))
  | .sym l =>
    match st.syms.lookup (fullName st.owner l) with
    | some (some v) => .ok v
    | some none => .error .noValue
    | none => .error .undefinedSymbol

/-- A value in a narrower range (35_assembler.md R111, R136). -/
def within (lo hi : Int) (err : AsmError) (v : Int) : Except AsmError Int :=
  if lo ≤ v ∧ v ≤ hi then .ok v else .error err

/-- The value of a constant or symbol in a range. -/
def AsmState.evalIn (st : AsmState) (lo hi : Int) (e : Expr) : Except AsmError Int := do
  let v ← st.eval e
  within lo hi .constantRange v.value

/-! ### Instructions -/

/-- A machine instruction, and after it the NOP of its delay slot under DISABLE_DELAY_SLOTS, if it has a slot
(35_assembler.md R134; DELAY_SLOT_SET, log 13). Under ENABLE_DELAY_SLOTS the next line fills the slot, whatever it
expands to (log 50). -/
def AsmState.withSlot (st : AsmState) (i : Instr) : List Instr :=
  match controlKind i with
  | some k => if !st.slots && st.params.delaySlotSet.contains k then [i, .nop] else [i]
  | none => [i]

/-- `MVI op1, symbol` for a symbol of value `v` (44_transfer.md R237; log 39). -/
def AsmState.loadSymbol (st : AsmState) (r : Reg) (v : Int) : List Instr :=
  match st.params.symbolMvi with
  | .pair => mviPair st.params.pairOrder r (BitVec.ofInt 16 v)
  | .fitting => expandMvi st.params.pairOrder r v

/-- The displacement of a relative jump at the location counter: a constant is the displacement itself, an address its
distance from the jump (35_assembler.md R111, R121; log 49). -/
def AsmState.displacement (st : AsmState) (v : SymbolValue) : Except AsmError Int :=
  match v.kind, st.loc with
  | .constant, _ => within (-128) 127 .constantRange v.value
  | .address, some a => within (-128) 127 .outOfReach (v.value - (a.toNat : Int))
  | .address, none => .error .noValue

/-- An absolute jump to a label: the address into R7, then the jump through R7 (35_assembler.md R120; decision D26). An EQU
symbol stands for the address too (log 49). -/
def AsmState.jumpToLabel (st : AsmState) (l : Label) (jump : Instr) : Except AsmError (List Instr) := do
  let v ← st.eval (.sym l)
  return st.loadSymbol .r7 v.value ++ st.withSlot jump

/-- The machine instructions of a written instruction (35_assembler.md R111, R120, R121, R132, R134). -/
def AsmState.expand (st : AsmState) : AsmInstr → Except AsmError (List Instr)
  | .plain i => if i.wellFormed then .ok (st.withSlot i) else .error .constantRange
  | .mvi r (.sym l) => do
    let v ← st.eval (.sym l)
    return st.loadSymbol r v.value
  | .mvi r e => do
    let v ← st.eval e
    return expandMvi st.params.pairOrder r v.value
  | .mvih r e => do
    let c ← st.evalIn (-128) 255 e
    return [.mvih r (BitVec.ofInt 8 c)]
  | .mvil r e => do
    let c ← st.evalIn (-128) 255 e
    return [.mvil r (BitVec.ofInt 8 c)]
  | .br k e => do
    let v ← st.eval e
    let d ← st.displacement v
    return st.withSlot (brOf k (BitVec.ofInt 8 d))
  | .jmp k l => st.jumpToLabel l (jmpOf k .r7)
  | .jal k l => st.jumpToLabel l (jalOf k .r7)
  | .int e => do
    let c ← st.evalIn 0 255 e
    return st.withSlot (.int (BitVec.ofInt 8 c))

/-- The value of a constant or symbol, 0 while it is not known. -/
def AsmState.guess (st : AsmState) (e : Expr) : Int :=
  match st.eval e with
  | .ok v => v.value
  | .error _ => 0

/-- How many positions a written instruction takes, by the values known of its symbols. -/
def AsmState.sizeOf (st : AsmState) : AsmInstr → Nat
  | .plain i => (st.withSlot i).length
  | .mvi r (.sym l) => (st.loadSymbol r (st.guess (.sym l))).length
  | .mvi r e => (expandMvi st.params.pairOrder r (st.guess e)).length
  | .mvih _ _ | .mvil _ _ => 1
  | .br k _ => (st.withSlot (brOf k 0)).length
  | .jmp k l => (st.loadSymbol .r7 (st.guess (.sym l)) ++ st.withSlot (jmpOf k .r7)).length
  | .jal k l => (st.loadSymbol .r7 (st.guess (.sym l)) ++ st.withSlot (jalOf k .r7)).length
  | .int _ => (st.withSlot (.int 0)).length

/-! ### A line: what it defines and how far it moves the location counter -/

/-- How many positions a STR directive takes (35_assembler.md R127). -/
def strSize : List StrItem → Nat
  | [] => 0
  | .text cs :: items => (unquote cs).length + strSize items
  | .const _ :: items => 1 + strSize items

/-- The names a line defines, as written: of its label and of its directive. -/
def Line.names (line : Line) : List String :=
  (match line.label with
    | some (.global name) | some (.loc name) => [name]
    | none => []) ++
  match line.stmt with
  | some (.equ name _) | some (.word name _) | some (.str name _) | some (.tab name _) => [name]
  | _ => []

/-- The symbols a line defines, with the values this pass knows: a label and a WORD, STR or TAB the location counter,
an EQU its constant (35_assembler.md R118, R125 to R128). A label before a directive has the location before it
(log 47). -/
def AsmState.defs (st : AsmState) (line : Line) : Symbols :=
  let here := st.loc.map SymbolValue.addr
  (match line.label with
    | some l => [(fullName st.owner l, here)]
    | none => []) ++
  match line.stmt with
  | some (.equ name e) => [(name, (st.eval e).toOption.map fun v => .const v.value)]
  | some (.word name _) | some (.str name _) | some (.tab name _) => [(name, here)]
  | _ => []

/-- The location counter and the options after an instruction or directive (35_assembler.md R118, R124 to R129). A TAB
count is not negative (log 48). -/
def AsmState.pass (st : AsmState) : Stmt → AsmState
  | .instr m => st.skip (st.sizeOf m)
  | .orig e => { st with loc := (st.eval e).toOption.map fun v => BitVec.ofInt 16 v.value }
  | .equ _ _ => st
  | .word _ _ => st.skip 1
  | .str _ items => st.skip (strSize items)
  | .tab _ e =>
    match st.evalIn 0 65535 e with
    | .ok n => st.skip n.toNat
    | .error _ => { st with loc := none }
  | .opt o => st.setOption o

/-- The assembler's setting after a line, whether or not the line can be assembled. -/
def AsmState.afterLine (st : AsmState) (line : Line) : AsmState :=
  let st := st.enterLabel line.label
  let st := { st with found := st.found ++ st.defs line }
  match line.stmt with
  | some stmt => st.pass stmt
  | none => st

/-- The symbols of a source: those under which a pass finds what it assumed. Each pass knows what the one before
found, so that a symbol may be used above its definition (35_assembler.md R117); one that is defined through itself
only never gets a value. -/
def settle (params : Config.AsmParams) (lines : List Line) : Nat → Symbols → Symbols
  | 0, syms => syms
  | fuel + 1, syms =>
    let found := (lines.foldl AsmState.afterLine (AsmState.initial params syms)).found
    if found = syms then syms else settle params lines fuel found

/-! ### Output (R124 to R128, R136 to R138) -/

/-- What is placed: words of program memory, words of data memory, the data positions reserved without a value, and
the line of each program word (35_assembler.md R128, R137; 80_host_simulator.md R386). -/
structure Placed where
  program : Image
  data : Image
  reserved : List Word
  source : SourceMap
deriving DecidableEq, Repr

/-- Nothing placed. -/
def Placed.empty : Placed := { program := [], data := [], reserved := [], source := [] }

/-- What two lines place together. -/
def Placed.join (p q : Placed) : Placed :=
  { program := p.program ++ q.program
    data := p.data ++ q.data
    reserved := p.reserved ++ q.reserved
    source := p.source ++ q.source }

/-- No two words at one position of a memory (35_assembler.md R124, R137; positions are those of log 53). -/
def Placed.disjoint (p : Placed) : Bool :=
  decide ((p.program.map fun x => position x.1).Nodup ∧
    (p.data.map (fun x => position x.1) ++ p.reserved.map position).Nodup)

/-- Consecutive words from an address on; after FFFFh comes 0000h (log 48). -/
def consecutive (a : Word) : List Word → Image
  | [] => []
  | w :: ws => (a, w) :: consecutive (a + 1) ws

/-- Words placed from the location counter on; nowhere while it is not known. -/
def AsmState.image (st : AsmState) (ws : List Word) : Image :=
  match st.loc with
  | some a => consecutive a ws
  | none => []

/-- The words of machine instructions under the ENCODING (30_encoding.md R85). -/
def encodeAll (enc : Config.Encoding) (is : List Instr) : Except AsmError (List Word) :=
  is.mapM fun i => match encodeBy enc i with
    | some w => .ok w
    | none => .error .noWord

/-- The words of a STR directive (35_assembler.md R127). -/
def AsmState.strWords (st : AsmState) : List StrItem → Except AsmError (List Word)
  | [] => .ok []
  | .text cs :: items => do
    let ws ← st.strWords items
    return (unquote cs).map (charWord st.enc) ++ ws
  | .const e :: items => do
    let v ← st.eval e
    let ws ← st.strWords items
    return BitVec.ofInt 16 v.value :: ws

/-- What an instruction or directive of line `n` places (35_assembler.md R124 to R129, R137), or why it cannot be
converted (R136), also where its address is not known. Every line is expanded as written, in a delay slot too
(log 50). -/
def AsmState.output (st : AsmState) (n : Nat) : Stmt → Except AsmError Placed
  | .instr m => do
    let is ← st.expand m
    let ws ← encodeAll st.params.encoding is
    let image := st.image ws
    return { Placed.empty with program := image, source := image.map fun x => (x.1, n) }
  | .orig e | .equ _ e => do
    let _ ← st.eval e
    return Placed.empty
  | .word _ e => do
    let v ← st.eval e
    return { Placed.empty with data := st.image [BitVec.ofInt 16 v.value] }
  | .str _ items => do
    let ws ← st.strWords items
    return { Placed.empty with data := st.image ws }
  | .tab _ e => do
    let count ← st.evalIn 0 65535 e
    return { Placed.empty with reserved := (st.image (List.replicate count.toNat 0)).map Prod.fst }
  | .opt _ => return Placed.empty

/-- Why the symbols a line defines cannot be, if so: a name that breaks R131, of a local label the part after the
point (log 54), a name already found, a value that does not settle. -/
def AsmState.badName (st : AsmState) (line : Line) : Option AsmError :=
  let names := (st.defs line).map Prod.fst
  if !line.names.all fun name => validSymbol name.toList then some .badSymbol
  else if !decide names.Nodup || names.any (fun name => (st.found.lookup name).isSome) then some .duplicateSymbol
  else if (st.defs line).any (fun d => st.syms.lookup d.1 != some d.2) then some .unsettled
  else none

/-- What line `n` places, all symbols settled, or its error (35_assembler.md R136). The lines between an ORIG or TAB in
error and the next ORIG have no address and are checked like the others (log 48). -/
def AsmState.placeLine (st : AsmState) (n : Nat) (line : Line) : Except AsmError Placed :=
  let st := st.enterLabel line.label
  match st.badName line, line.stmt with
  | some err, _ => .error err
  | none, none => .ok Placed.empty
  | none, some stmt => st.output n stmt

/-- What the lines from line `n` on place, and the lines in error, each with its error (35_assembler.md R136). A line
in error takes no position from the lines after it (log 59). -/
def place (st : AsmState) (n : Nat) (sofar : Placed) : List Line → Placed × List (Nat × AsmError)
  | [] => (sofar, [])
  | line :: lines =>
    let one := do
      let p ← st.placeLine n line
      if (sofar.join p).disjoint then .ok (sofar.join p) else .error AsmError.overlap
    match one with
    | .ok p => place (st.afterLine line) (n + 1) p lines
    | .error err =>
      let rest := place (st.afterLine line) (n + 1) sofar lines
      (rest.1, (n, err) :: rest.2)

/-- The images of a source text, or its lines in error, counted from 1; a source with one yields no image
(35_assembler.md R124 to R137; 80_host_simulator.md R389). A line defines at most two symbols and a pass after the
first settles at least one more of them, unless the size of an expansion depends on it (log 39); hence the number of passes. -/
def assemble (params : Config.AsmParams) (lines : List Line) : Except (List (Nat × AsmError)) Placed :=
  let syms := settle params lines (4 * lines.length + 4) []
  match place (AsmState.initial params syms) 1 Placed.empty lines with
  | (p, []) => .ok p
  | (_, errors) => .error errors

end Sys2Proof.Machine
end

