-- ==== Sys2Proof/Safety.lean ====
section
/-! DEFINITION. What holds of every state a run can reach, and what counts as the end of a run, in the
terms the statements use. -/

namespace Sys2Proof.Machine

/-- The terminal is in form: written cells in the 45 × 80 grid, each once and in order, and a cursor that
has a position has one in the grid (61_io_devices.md R302, R306). -/
def Terminal.inForm (t : Terminal) : Prop :=
  sparseWf 3600 t.cells ∧ ∀ row col, t.cursor = .at row col → row < 45 ∧ col < 80

/-- The LCD is in form: written cells in the 2 × 16 grid, and the cursor in it (61_io_devices.md R325). -/
def Lcd.inForm (l : Lcd) : Prop := sparseWf 32 l.cells ∧ l.line < 2 ∧ l.col < 16

/-- The invariant of the machine: both memories in their canonical form (20_memory.md R50), the terminal and
the LCD in form, and pc and PC_E within the width of the program counter (10_state.md R24; PC_WIDTH, log 4). -/
def State.Inv (s : State) : Prop :=
  Memory.wf s.pmem ∧ Memory.wf s.dmem ∧ s.dev.term.inForm ∧ s.dev.lcd.inForm ∧
    fitPc s.params.pcWidth s.pc = s.pc ∧ fitPc s.params.pcWidth s.pcE = s.pcE

/-- A run of `n` steps completes: no step of it is refused. -/
def State.runs (s : State) (n : Nat) : Prop := ∃ t, Host.Core.run Sys2Proof.core n s = .next t

/-- A safe run: it can go on for any number of steps. -/
def State.safe (s : State) : Prop := ∀ n, s.runs n

/-- The same machine state: equal but for the model's own counters (log 35). -/
def State.sameMachine (s t : State) : Prop :=
  { t with
    freeCount := s.freeCount
    dev := { t.dev with term := { t.dev.term with epoch := s.dev.term.epoch } } } = s

/-- With no input event left, the state repeats for ever: some number of steps brings it back, again and again
(80_host_simulator.md R390, case 2). -/
def State.loops (s : State) : Prop :=
  s.inputs = [] ∧
    ∃ n, 0 < n ∧ ∀ k, ∃ t, Host.Core.run Sys2Proof.core (k * n) s = .next t ∧ s.sameMachine t

/-- How a run ends, with what it yields (80_host_simulator.md R390). -/
inductive RunEnd where
  | stopped (r : RunResult)       -- case 1: Stop, or a breakpoint
  | repeating (r : RunResult)     -- case 2: the final state repeats for ever
  | refused (why : Refusal)       -- case 3: a step is UNPREDICTABLE; the run has no result
deriving DecidableEq, Repr

/-- Whether a run of `n` steps from a state ends so. -/
def State.endsBy (s : State) (n : Nat) : RunEnd → Prop
  | .stopped r => s.observe n = .next r
  | .repeating r => s.observe n = .next r ∧ r.final.loops
  | .refused why => s.observe n = .refused why

end Sys2Proof.Machine
end

