-- ==== Sys2Proof/Certificates/Slice0/Obligations.lean ====
section
/-! DEFINITION. The statements for the provers. Each is written from the rules of spec/ that its docstring names. A
statement's own vocabulary stands in Sys2Proof.Claims: it is written from the spec, not from the meanings. -/

namespace Sys2Proof.Claims
open Machine

/-! ### Results -/

/-- An address as pc holds it: whole where PC_WIDTH is 16, its low 15 bits where it is 15 (10_state.md R24; log 4). -/
def inPc (s : State) (a : Word) : Word :=
  match s.params.pcWidth with
  | .bits15 => BitVec.ofNat 16 (a.toNat % 32768)
  | .bits16 => a

/-- pc after an instruction that writes no pc: the delayed target if one is pending, else the successor
(10_state.md R28). -/
def nextPc (s : State) : Word :=
  match s.ds with
  | some t => inPc s t
  | none => inPc s (s.pc + 1)

/-- `s` after an instruction of kind `k` sends control to `target`: where DELAY_SLOT_SET holds `k`, pc is at the
delay slot and the target pending, else pc is at the target (43_control.md R201; 00_scope.md R9; log 13). -/
def sentTo (s : State) (k : Config.ControlKind) (target : Word) : State :=
  if k ∈ s.params.delaySlotSet then { s with pc := inPc s (s.pc + 1), ds := some target }
  else { s with pc := inPc s target, ds := none }

/-- `s` after an instruction that writes `r` to register `d` and makes the status bits `f`; nothing else of
the state changes but pc and ds, which advance. -/
def writes (s : State) (d : Reg) (r : Word) (f : Flags) : State :=
  { s with regs := s.regs.set d r, re := f, pc := nextPc s, ds := none }

/-- `s` after an instruction that makes the status bits `f` and changes nothing else but pc and ds. -/
def flagsOnly (s : State) (f : Flags) : State := { s with re := f, pc := nextPc s, ds := none }

/-- Z, C, N, O written, E kept (10_state.md R29, R30, line ZCNO). -/
def zcno (f : Flags) (r : Word) (c o : Bool) : Flags :=
  { e := f.e, z := decide (r = 0), c := c, n := r.getLsbD 15, o := o }

/-- Z, C, N written, E and O kept (10_state.md R30, line ZCN). -/
def zcn (f : Flags) (r : Word) (c : Bool) : Flags :=
  { e := f.e, z := decide (r = 0), c := c, n := r.getLsbD 15, o := f.o }

/-- Z, N written, E, C and O kept (10_state.md R30, line ZN). -/
def zn (f : Flags) (r : Word) : Flags :=
  { e := f.e, z := decide (r = 0), c := f.c, n := r.getLsbD 15, o := f.o }

/-- The carry out of `x + y + cin`: the unsigned sum does not fit in 16 bits (40_arithmetic.md R150). -/
def carries (x y : Word) (cin : Nat) : Bool := decide (65536 ≤ x.toNat + y.toNat + cin)

/-- The overflow of `r = x + y + cin`, bit by bit: `x[15] = y[15] and r[15] != x[15]` (40_arithmetic.md R150). -/
def overflows (x y r : Word) : Bool := (x.getLsbD 15 == y.getLsbD 15) && (r.getLsbD 15 != x.getLsbD 15)

/-- No borrow in `x - y - bin` (40_arithmetic.md R157, R158). -/
def fits (x y : Word) (bin : Nat) : Bool := decide (y.toNat + bin ≤ x.toNat)

/-- The signed overflow of `r = x - y - bin`: the operands' signs differ and the result's is not `x`'s. -/
def subOverflows (x y r : Word) : Bool := (x.getLsbD 15 != y.getLsbD 15) && (r.getLsbD 15 != x.getLsbD 15)

/-- C after a subtraction, for both settings of SUB_CARRY (40_arithmetic.md R151; log 9). -/
def subC (s : State) (noBorrow : Bool) : Bool :=
  match s.params.subCarry with
  | .carryOut => noBorrow
  | .borrow => !noBorrow

/-- 1 for C = 1 and 0 for C = 0. -/
def bit (b : Bool) : Nat := if b then 1 else 0

/-- `b` at bit 0 of a word. -/
def bitAt0 (b : Bool) : Word := if b then 1 else 0

/-- The 32-bit value of two words. -/
def wide (hi lo : Word) : Nat := 65536 * hi.toNat + lo.toNat

/-- The signed 32-bit value of two words. -/
def wideInt (hi lo : Word) : Int := 65536 * hi.toInt + lo.toNat

/-- The outcome of instructions executed one after another. -/
def runAll : List Instr → State → Host.Outcome State Fault Refusal
  | [], s => .next s
  | i :: is, s =>
    match exec i s with
    | .next t => runAll is t
    | .fault r => .fault r
    | .refused r => .refused r

/-! ### Tables of the spec -/

/-- The predicates of 43_control.md R200. -/
def holds (k : Cond) (f : Flags) : Prop :=
  match k with
  | .z => f.z = true
  | .nz => f.z = false
  | .n => f.n = true
  | .nn => f.n = false
  | .p => f.n = false ∧ f.z = false
  | .np => f.n = true ∨ f.z = true
  | .c => f.c = true
  | .nc => f.c = false
  | .o => f.o = true
  | .no => f.o = false

/-- The ten BR.cond. -/
def brWhen (k : Cond) (d : BitVec 8) : Instr :=
  match k with
  | .z => .brZ d
  | .nz => .brNZ d
  | .n => .brN d
  | .nn => .brNN d
  | .p => .brP d
  | .np => .brNP d
  | .c => .brC d
  | .nc => .brNC d
  | .o => .brO d
  | .no => .brNO d

/-- The ten JMP.cond. -/
def jmpWhen (k : Cond) (r : Reg) : Instr :=
  match k with
  | .z => .jmpZ r
  | .nz => .jmpNZ r
  | .n => .jmpN r
  | .nn => .jmpNN r
  | .p => .jmpP r
  | .np => .jmpNP r
  | .c => .jmpC r
  | .nc => .jmpNC r
  | .o => .jmpO r
  | .no => .jmpNO r

/-- The ten JAL.cond. -/
def jalWhen (k : Cond) (r : Reg) : Instr :=
  match k with
  | .z => .jalZ r
  | .nz => .jalNZ r
  | .n => .jalN r
  | .nn => .jalNN r
  | .p => .jalP r
  | .np => .jalNP r
  | .c => .jalC r
  | .nc => .jalNC r
  | .o => .jalO r
  | .no => .jalNO r

/-- The control instructions: BR, BR.cond, JMP, JMP.cond, JAL, JAL.cond, INT, RTI (43_control.md R210). -/
def isControl : Instr → Bool
  | .br _ | .brZ _ | .brNZ _ | .brN _ | .brNN _ | .brP _ | .brNP _ | .brC _ | .brNC _ | .brO _ | .brNO _
  | .jmp _ | .jmpZ _ | .jmpNZ _ | .jmpN _ | .jmpNN _ | .jmpP _ | .jmpNP _ | .jmpC _ | .jmpNC _ | .jmpO _ | .jmpNO _
  | .jal _ | .jalZ _ | .jalNZ _ | .jalN _ | .jalNN _ | .jalP _ | .jalNP _ | .jalC _ | .jalNC _ | .jalO _ | .jalNO _
  | .int _ | .rti => true
  | _ => false

/-- The "Flags:" line of each instruction (10_state.md R30): true where the instruction writes the bit. -/
def flagLine : Instr → Flags
  | .add _ _ _ | .addc _ _ _ | .sub _ _ _ | .subb _ _ _ | .cmp _ _ | .inc _ | .dec _ | .neg _
  | .shla _ | .shra _ => { e := false, z := true, c := true, n := true, o := true }
  | .shr _ | .shl _ | .ror _ | .rol _ | .rorc _ | .rolc _ =>
    { e := false, z := true, c := true, n := true, o := false }
  | .and _ _ _ | .or _ _ _ | .xor _ _ _ | .test _ _ | .com _ =>
    { e := false, z := true, c := false, n := true, o := false }
  | .stc | .clc | .cmc => { e := false, z := false, c := true, n := false, o := false }
  | .eni | .dsi => { e := true, z := false, c := false, n := false, o := false }
  | .int _ | .rti => { e := true, z := true, c := true, n := true, o := true }
  | .br _ | .brZ _ | .brNZ _ | .brN _ | .brNN _ | .brP _ | .brNP _ | .brC _ | .brNC _ | .brO _ | .brNO _
  | .jmp _ | .jmpZ _ | .jmpNZ _ | .jmpN _ | .jmpNN _ | .jmpP _ | .jmpNP _ | .jmpC _ | .jmpNC _ | .jmpO _ | .jmpNO _
  | .jal _ | .jalZ _ | .jalNZ _ | .jalN _ | .jalNN _ | .jalP _ | .jalNP _ | .jalC _ | .jalNC _ | .jalO _ | .jalNO _
  | .load _ _ | .stor _ _ | .mov _ _ | .mvi _ _ | .mvih _ _ | .mvil _ _ | .nop =>
    { e := false, z := false, c := false, n := false, o := false }

/-- The instructions that read status bits, but for E at the acceptance of an interrupt (10_state.md R30). -/
def readsFlags : Instr → Bool
  | .brZ _ | .brNZ _ | .brN _ | .brNN _ | .brP _ | .brNP _ | .brC _ | .brNC _ | .brO _ | .brNO _
  | .jmpZ _ | .jmpNZ _ | .jmpN _ | .jmpNN _ | .jmpP _ | .jmpNP _ | .jmpC _ | .jmpNC _ | .jmpO _ | .jmpNO _
  | .jalZ _ | .jalNZ _ | .jalN _ | .jalNN _ | .jalP _ | .jalNP _ | .jalC _ | .jalNC _ | .jalO _ | .jalNO _
  | .addc _ _ _ | .subb _ _ _ | .rorc _ | .rolc _ | .cmc | .int _ => true
  | _ => false

/-- The instructions whose destination no operand read names, by their destination. -/
def withDestination (a b : Reg) (c : BitVec 9) : List (Reg → Instr) :=
  [(.add · a b), (.addc · a b), (.sub · a b), (.subb · a b), (.and · a b), (.or · a b), (.xor · a b), (.mov · a),
    (.load · a), (.mvi · c)]

/-- The general registers each instruction reads (10_state.md R22). -/
def readRegs : Instr → List Reg
  | .add _ y z | .addc _ y z | .sub _ y z | .subb _ y z | .and _ y z | .or _ y z | .xor _ y z => [y, z]
  | .cmp x y | .test x y | .stor x y => [x, y]
  | .neg x | .inc x | .dec x | .com x | .shr x | .shl x | .shra x | .shla x | .ror x | .rol x | .rorc x | .rolc x
  | .mvih x _ | .mvil x _ => [x]
  | .mov _ y | .load _ y => [y]
  | .jmp r | .jmpZ r | .jmpNZ r | .jmpN r | .jmpNN r | .jmpP r | .jmpNP r | .jmpC r | .jmpNC r | .jmpO r | .jmpNO r
  | .jal r | .jalZ r | .jalNZ r | .jalN r | .jalNN r | .jalP r | .jalNP r | .jalC r | .jalNC r | .jalO r | .jalNO r => [r]
  | .mvi _ _ | .br _ | .brZ _ | .brNZ _ | .brN _ | .brNN _ | .brP _ | .brNP _ | .brC _ | .brNC _ | .brO _ | .brNO _
  | .int _ | .rti | .nop | .eni | .dsi | .stc | .clc | .cmc => []

/-- The general register each instruction writes (10_state.md R22). -/
def writtenReg : Instr → Option Reg
  | .add x _ _ | .addc x _ _ | .sub x _ _ | .subb x _ _ | .and x _ _ | .or x _ _ | .xor x _ _
  | .neg x | .inc x | .dec x | .com x | .shr x | .shl x | .shra x | .shla x | .ror x | .rol x | .rorc x | .rolc x
  | .mov x _ | .load x _ | .mvi x _ | .mvih x _ | .mvil x _ => some x
  | .jal _ | .jalZ _ | .jalNZ _ | .jalN _ | .jalNN _ | .jalP _ | .jalNP _ | .jalC _ | .jalNC _ | .jalO _ | .jalNO _ =>
    some .r7
  | .cmp _ _ | .test _ _ | .stor _ _
  | .jmp _ | .jmpZ _ | .jmpNZ _ | .jmpN _ | .jmpNN _ | .jmpP _ | .jmpNP _ | .jmpC _ | .jmpNC _ | .jmpO _ | .jmpNO _
  | .br _ | .brZ _ | .brNZ _ | .brN _ | .brNN _ | .brP _ | .brNP _ | .brC _ | .brNC _ | .brO _ | .brNO _
  | .int _ | .rti | .nop | .eni | .dsi | .stc | .clc | .cmc => none

/-- Whether an instruction is a LOAD. -/
def isLoad (i : Instr) : Prop := ∃ x y, i = .load x y

/-- Whether an instruction is a STOR. -/
def isStor (i : Instr) : Prop := ∃ x y, i = .stor x y

/-- The two states agree on everything but the content of general register `q`. -/
def sameBut (q : Reg) (t u : State) : Prop := { u with regs := t.regs } = t ∧ ∀ r, r ≠ q → u.reg r = t.reg r

/-- The state with everything the output-only devices hold forgotten: screen, cursor and colours of the
terminal, LED, LCD, displays. The last key, the key flag, the switches, the timer and the accelerometer stay. -/
def forgetOutputs (s : State) : State :=
  { s with
    dev :=
      { s.dev with
        term := { Devices.initial.term with key := s.dev.term.key, keyFlag := s.dev.term.keyFlag }
        led := 0
        lcd := Devices.initial.lcd
        disp := Devices.initial.disp } }

/-- The ports of Tabela 3 marked for reading whose read has no side effect, with the value read
(61_io_devices.md R301, R305, R318, R319, R321, R323, R332). -/
def quietReads (s : State) : List (Word × Word) :=
  [(0xFFFD, bitAt0 s.dev.term.keyFlag), (0xFFFA, s.im), (0xFFF9, BitVec.ofNat 16 s.dev.sw.toNat),
   (0xFFF7, bitAt0 s.dev.timer.run), (0xFFF6, BitVec.ofNat 16 (s.dev.timer.elapsed % 65536)),
   (0xFFEB, s.dev.accX), (0xFFEC, s.dev.accY), (0xFFED, s.dev.accZ)]

/-- The addresses whose read Tabela 3 does not describe (61_io_devices.md R339). -/
def undescribedRead (a : Word) : Prop :=
  (0xFF00 ≤ a.toNat ∧ a.toNat ≤ 0xFFEA) ∨ (0xFFEE ≤ a.toNat ∧ a.toNat ≤ 0xFFF5) ∨ a = 0xFFF8 ∨ a = 0xFFFB ∨
    a = 0xFFFC ∨ a = 0xFFFE

/-- The addresses whose write Tabela 3 does not describe (61_io_devices.md R339). -/
def undescribedWrite (a : Word) : Prop :=
  (0xFF00 ≤ a.toNat ∧ a.toNat ≤ 0xFFED) ∨ a = 0xFFF9 ∨ a = 0xFFFD ∨ a = 0xFFFF

/-- A request on vectors 8h to Eh, which no source raises (60_exceptions.md R261). -/
def noUnwiredRequest (s : State) : Prop := ∀ v, 8 ≤ v → v ≤ 14 → s.ip.getLsbD v = false

/-- A Reset among the host's events at this boundary. -/
def resetDue (s : State) : Prop := ∃ events later, s.inputs = events :: later ∧ HostEvent.reset ∈ events

end Sys2Proof.Claims

open Sys2Proof Sys2Proof.Machine Sys2Proof.Claims

/-! ## Encoding (PE-1, the spec's own choice: log 1) -/

/-- Every well-formed instruction decodes from its word, low octet first, whatever octets follow: no bit of
an encoding is dropped (30_encoding.md R85, R102; PE-1 is decision D1, log 1; the octet order is log 2). -/
def Obligations.EncodeThenDecode : Prop :=
  ∀ (i : Instr) (rest : List Byte), i.wellFormed = true →
    decode (Word.octets (encode i) ++ rest) = .ok (i, rest)

/-- Every word that decodes is the word of the instruction it decodes to, which is well-formed: no two
words stand for one instruction (30_encoding.md R85 (2), (3), R102; log 1). -/
def Obligations.DecodeThenEncode : Prop :=
  ∀ (w : Word) (i : Instr), decodeWord w = .ok i → i.wellFormed = true ∧ encode i = w

/-- A word that is no well-formed instruction's is decoded to a named rejection, and a step that fetches it is refused
with that name; under PE-1 and under every other legal setting of ENCODING (30_encoding.md R99, R85, U1; decision D23,
log 25; ENCODING is log 46). -/
def Obligations.ReservedWordRefused : Prop :=
  ∀ (enc : Config.Encoding) (w : Word), enc.legal →
    (∀ i : Instr, i.wellFormed = true → encodeBy enc i ≠ some w) →
    ∃ why, decodeBy enc w = .error why ∧
      ∀ s : State, s.params.encoding = enc → s.deliver.accepted = none → s.deliver.fetchWord = some w →
        step s = .refused (.reservedWord why)

/-- The words of the source's own assembly examples, and one example more for each format, as the spec prints
them (30_encoding.md R103, R88 to R97; log 1). -/
def Obligations.WorkedWords : Prop :=
  decodeWord 0x2298 = .ok (.add .r1 .r2 .r3) ∧ decodeWord 0x907F = .ok (.br 127) ∧
  decodeWord 0x5281 = .ok (.load .r1 .r2) ∧ decodeWord 0xA007 = .ok (.jmp .r7) ∧
  decodeWord 0x4601 = .ok (.inc .r3) ∧ decodeWord 0x5282 = .ok (.stor .r1 .r2) ∧
  decodeWord 0x6205 = .ok (.mvi .r1 5) ∧ decodeWord 0x63FF = .ok (.mvi .r1 0x1FF) ∧
  decodeWord 0x7212 = .ok (.mvih .r1 0x12) ∧ decodeWord 0x8234 = .ok (.mvil .r1 0x34) ∧
  decodeWord 0x9080 = .ok (.br 0x80) ∧ decodeWord 0x92FD = .ok (.brNZ 0xFD) ∧
  decodeWord 0xB001 = .ok (.jal .r1) ∧ decodeWord 0xA107 = .ok (.jmpZ .r7) ∧
  decodeWord 0x0000 = .ok .nop ∧ decodeWord 0x0006 = .ok .rti ∧ decodeWord 0x1020 = .ok (.int 0x20)

/-! ## The step -/

/-- A step at a boundary with no interrupt to take runs the instruction that the fetched word decodes to under the
ENCODING, on the state after the host's events; with no event waiting that state is the present one. The instruction is
well formed where the ENCODING is a legal one, as PE-1 is (10_state.md R28; 30_encoding.md R85; log 1, log 46). -/
def Obligations.StepRunsDecoded : Prop :=
  (∀ (s : State) (w : Word) (i : Instr), s.deliver.accepted = none → s.deliver.fetchWord = some w →
    decodeBy s.params.encoding w = .ok i →
    step s = exec i s.deliver ∧ (s.params.encoding.legal → i.wellFormed = true)) ∧
  (∀ s : State, s.inputs = [] → s.deliver = s) ∧ Config.Encoding.pe1.legal ∧ ∀ w, decodeBy .pe1 w = decodeWord w

/-- A well-formed instruction placed where the next fetch reads is the instruction the next step runs, when no event
waits and no interrupt is taken: under every legal ENCODING, which has a word for it, and under PE-1 through the host's
load of its word (20_memory.md R60; 30_encoding.md R85; log 3, log 46). -/
def Obligations.PlacedInstructionRuns : Prop :=
  ∀ (s : State) (i : Instr), i.wellFormed = true → s.inputs = [] → s.accepted = none →
    (s.params.encoding.legal →
      ∃ w, encodeBy s.params.encoding i = some w ∧ step (s.placeAtPc w) = exec i (s.placeAtPc w)) ∧
    (s.params.encoding = .pe1 →
      step (s.withFetchWord 16 (encode i).toNat) = exec i (s.withFetchWord 16 (encode i).toNat)) ∧
    decodeTableWord 16 (encode i).toNat = some i

/-- A step stops in three cases only: the position fetched was not loaded (U2), the word there is no
instruction (U1), or a control instruction stands in the slot of a taken jump (U3). It never faults. That it does not
stop at a port that Tabela 3 does not describe (U4, U5) is THE MODEL'S CHOICE, the laxer instance that R339 allows
(log 22) (60_exceptions.md R260; 93_implementation_defined.md; log 15, log 25). -/
def Obligations.StepStopsOnlyWhere : Prop :=
  ∀ s : State,
    (∀ f, step s ≠ .fault f) ∧
    ∀ r, step s = .refused r → s.deliver.accepted = none ∧
      ((r = .unloadedProgram ∧ s.deliver.fetchWord = none) ∨
       (∃ w why, s.deliver.fetchWord = some w ∧ decodeBy s.params.encoding w = .error why ∧ r = .reservedWord why) ∨
       (∃ w i, s.deliver.fetchWord = some w ∧ decodeBy s.params.encoding w = .ok i ∧ isControl i = true ∧
         s.deliver.ds ≠ none ∧ r = .controlInDelaySlot))

/-- Every instruction completes at every operand value, but a control instruction in the slot of a taken
jump, which is refused. That LOAD and STOR complete at a port that Tabela 3 does not describe too (U4, U5) is THE
MODEL'S CHOICE, the laxer instance that R339 allows (log 22) (60_exceptions.md R260; 43_control.md R210, decision D11,
log 15). -/
def Obligations.EveryInstructionCompletes : Prop :=
  ∀ (i : Instr) (s : State),
    (isControl i = true ∧ s.ds ≠ none → exec i s = .refused .controlInDelaySlot) ∧
    (¬(isControl i = true ∧ s.ds ≠ none) → ∃ t, exec i s = .next t)

/-- The delay slot: where a delayed target is pending, the next instruction, if no control instruction, completes
and leaves pc at the target and nothing pending; elsewhere an instruction that is no control instruction goes
on to its successor, modulo 2^16 or, where PC_WIDTH is 15, modulo 2^15 (10_state.md R25, R27, R28; log 4). That LOAD and
STOR complete at a port that Tabela 3 does not describe too is THE MODEL'S CHOICE, the laxer instance that
61_io_devices.md R339 allows (log 22). -/
def Obligations.DelaySlot : Prop :=
  ∀ (i : Instr) (s : State), isControl i = false →
    ∃ t, exec i s = .next t ∧ t.ds = none ∧ (∀ a, s.ds = some a → t.pc = inPc s a) ∧
      (s.ds = none →
        t.pc.toNat = (s.pc.toNat + 1) % (match s.params.pcWidth with | .bits15 => 32768 | .bits16 => 65536))

/-! ## Reset -/

/-- The general registers are 0 after reset, the one a run starts with and a later one, and R0 is 0 always
(10_state.md R23). -/
def Obligations.RegistersZeroAfterReset : Prop :=
  ∀ (s : State) (r : Reg), State.reset.reg r = 0 ∧ s.hostReset.reg r = 0 ∧ s.reg .r0 = 0

/-- The rest of the reset state: 10_state.md R40 and 61_io_devices.md R340, for the values those tables give
(the spec's decisions D3 and D18; log 5, log 6). A later Reset sets pc to RESET_PC, 0000h where it has its default
(log 5, log 46). -/
def Obligations.ResetValues : Prop :=
  ∀ s : State, State.reset.pc = 0 ∧ s.hostReset.pc = inPc s s.params.resetPc ∧ State.reset.params.resetPc = 0 ∧
    ∀ t ∈ [State.reset, s.hostReset],
      t.ds = none ∧ t.re = Flags.clear ∧ t.pcE = 0 ∧ t.reE = Flags.clear ∧ t.im = 0 ∧ t.ip = 0 ∧
      t.dev.term.key = 0 ∧ t.dev.term.keyFlag = false ∧ t.dev.timer.run = false ∧ t.dev.timer.duration = 0 ∧
      t.dev.timer.elapsed = 0 ∧ t.dev.term.cursor = .at 0 0 ∧ (∀ k, t.dev.term.cell k = none) ∧ t.dev.led = 0 ∧
      t.dev.lcd.line = 0 ∧ t.dev.lcd.col = 0 ∧ ∀ k, sparseRead t.dev.lcd.cells k = none

/-- The simulator's Reset keeps both memories, byte by byte, the breakpoints, and the switches and the accelerometer as
the events of this boundary left them; a key or a button of this boundary leaves nothing behind; the clock counter is 0
and the program restarts at RESET_PC, 0000h by default (70_reset_and_hazards.md R352; 80_host_simulator.md R384, R385;
that pc restarts there is decision D3, log 5; switches and accelerometer are D18, log 32). -/
def Obligations.ResetKeepsMemories : Prop :=
  ∀ m : Sim,
    (∀ a, sparseRead m.reset.machine.pmem a = sparseRead m.machine.pmem a) ∧
    (∀ a, Memory.octet m.reset.machine.dmem a = Memory.octet m.machine.dmem a) ∧
    m.reset.machine.dev.sw = m.machine.deliver.dev.sw ∧ m.reset.machine.dev.accX = m.machine.deliver.dev.accX ∧
    m.reset.machine.dev.accY = m.machine.deliver.dev.accY ∧ m.reset.machine.dev.accZ = m.machine.deliver.dev.accZ ∧
    m.reset.machine.ip = 0 ∧ m.reset.machine.dev.term.key = 0 ∧ m.reset.machine.dev.term.keyFlag = false ∧
    m.reset.breakpoints = m.breakpoints ∧ m.reset.clock = 0 ∧
    m.reset.machine.pc = inPc m.machine m.machine.params.resetPc

/-! ## Registers -/

/-- R0 is always 0 and a write to it changes nothing; another register holds the last value written to it, and a
write to one leaves the others; an instruction whose destination is R0 has every other effect it has with another
destination (10_state.md R21). That LOAD completes at a port that Tabela 3 does not describe too is THE MODEL'S CHOICE, the
laxer instance that 61_io_devices.md R339 allows (log 22). -/
def Obligations.RegisterFile : Prop :=
  ∀ (s : State) (d q : Reg) (v : Word),
    s.reg .r0 = 0 ∧ s.setReg .r0 v = s ∧
    ((s.setReg d v).reg q = if q = d ∧ d ≠ .r0 then v else s.reg q) ∧
    ∀ (a b : Reg) (c : BitVec 9), ∀ into ∈ withDestination a b c,
      ∃ t, exec (into d) s = .next t ∧ exec (into .r0) s = .next { t with regs := s.regs }

/-! ## Arithmetic -/

/-- ADD, ADDC, INC: the sum modulo 2^16, Z, N, the carry and the signed overflow; nothing else changes but pc and
ds (40_arithmetic.md R155, R156, R153; the flag formulas are R150's). -/
def Obligations.SumInstructions : Prop :=
  ∀ (s : State) (d a b : Reg),
    (let r := s.reg a + s.reg b
     exec (.add d a b) s =
       .next (writes s d r (zcno s.re r (carries (s.reg a) (s.reg b) 0) (overflows (s.reg a) (s.reg b) r)))) ∧
    (let r := s.reg a + s.reg b + bitAt0 s.re.c
     exec (.addc d a b) s =
       .next
         (writes s d r
           (zcno s.re r (carries (s.reg a) (s.reg b) (bit s.re.c)) (overflows (s.reg a) (s.reg b) r)))) ∧
    (let r := s.reg d + 1
     exec (.inc d) s = .next (writes s d r (zcno s.re r (decide (s.reg d = 0xFFFF)) (decide (s.reg d = 0x7FFF)))))

/-- SUB, SUBB, CMP, DEC, NEG: the difference modulo 2^16, Z, N, the signed overflow, and C for both settings of
SUB_CARRY; nothing else changes but pc and ds, CMP writing no register (40_arithmetic.md R157, R158, R159, R154,
R152; SUB_CARRY is decision D5, log 9). -/
def Obligations.DifferenceInstructions : Prop :=
  ∀ (s : State) (d a b : Reg),
    (let r := s.reg a - s.reg b
     let f := zcno s.re r (subC s (fits (s.reg a) (s.reg b) 0)) (subOverflows (s.reg a) (s.reg b) r)
     exec (.sub d a b) s = .next (writes s d r f) ∧ exec (.cmp a b) s = .next (flagsOnly s f)) ∧
    (let r := s.reg a - s.reg b - bitAt0 (!s.re.c)
     exec (.subb d a b) s =
       .next
         (writes s d r
           (zcno s.re r (subC s (fits (s.reg a) (s.reg b) (bit (!s.re.c)))) (subOverflows (s.reg a) (s.reg b) r)))) ∧
    (let r := s.reg d - 1
     exec (.dec d) s =
       .next (writes s d r (zcno s.re r (subC s (decide (s.reg d ≠ 0))) (decide (s.reg d = 0x8000))))) ∧
    (let r := -s.reg d
     exec (.neg d) s =
       .next (writes s d r (zcno s.re r (subC s (decide (s.reg d = 0))) (decide (s.reg d = 0x8000)))))

/-- What the flags of CMP say, under SUB_CARRY = carry_out: Z equal, C not below, N xor O less than
(40_arithmetic.md R159, an inference of the spec; carry_out is decision D5, log 9). -/
def Obligations.CompareFlags : Prop :=
  ∀ (s : State) (a b : Reg), s.params.subCarry = .carryOut →
    ∃ t, exec (.cmp a b) s = .next t ∧ (t.re.z = true ↔ s.reg a = s.reg b) ∧
      (t.re.c = true ↔ (s.reg b).toNat ≤ (s.reg a).toNat) ∧
      ((t.re.n ^^ t.re.o) = true ↔ (s.reg a).toInt < (s.reg b).toInt)

/-- CMP is SUB to R0, TEST is AND to R0, NEG is SUB from R0 (35_assembler.md R135). -/
def Obligations.StatedEquivalences : Prop :=
  ∀ (s : State) (a b : Reg),
    exec (.cmp a b) s = exec (.sub .r0 a b) s ∧ exec (.test a b) s = exec (.and .r0 a b) s ∧
    exec (.neg a) s = exec (.sub a .r0 a) s

/-- ADD of the low words then ADDC of the high words is an exact 32-bit addition, with C the carry out of bit 31
and O the signed overflow of the 32-bit sum; SUB then SUBB is an exact 32-bit subtraction under SUB_CARRY =
carry_out, with C = 1 exactly when it does not borrow; where the low destination is neither R0 nor a high
operand (40_arithmetic.md R160.6; log 9). -/
def Obligations.WideArithmetic : Prop :=
  ∀ (s : State) (dl al bl dh ah bh : Reg), dl ≠ .r0 → dh ≠ .r0 → dl ≠ dh → ah ≠ dl → bh ≠ dl →
    (∃ t, runAll [.add dl al bl, .addc dh ah bh] s = .next t ∧
      (let sum := wide (s.reg ah) (s.reg al) + wide (s.reg bh) (s.reg bl)
       let signed := wideInt (s.reg ah) (s.reg al) + wideInt (s.reg bh) (s.reg bl)
       wide (t.reg dh) (t.reg dl) = sum % 4294967296 ∧ (t.re.c = true ↔ 4294967296 ≤ sum) ∧
       (t.re.o = true ↔ signed < -2147483648 ∨ 2147483647 < signed))) ∧
    (s.params.subCarry = .carryOut →
      ∃ t, runAll [.sub dl al bl, .subb dh ah bh] s = .next t ∧
        (let x := wide (s.reg ah) (s.reg al)
         let y := wide (s.reg bh) (s.reg bl)
         wide (t.reg dh) (t.reg dl) = (x + 4294967296 - y) % 4294967296 ∧ (t.re.c = true ↔ y ≤ x)))

/-! ## Logic -/

/-- COM, AND, OR, XOR, TEST: the bitwise result and Z, N from it; nothing else changes but pc and ds, TEST
writing no register (41_logic.md R171 to R175). -/
def Obligations.LogicInstructions : Prop :=
  ∀ (s : State) (d a b : Reg),
    exec (.com d) s = .next (writes s d (~~~s.reg d) (zn s.re (~~~s.reg d))) ∧
    exec (.and d a b) s = .next (writes s d (s.reg a &&& s.reg b) (zn s.re (s.reg a &&& s.reg b))) ∧
    exec (.or d a b) s = .next (writes s d (s.reg a ||| s.reg b) (zn s.re (s.reg a ||| s.reg b))) ∧
    exec (.xor d a b) s = .next (writes s d (s.reg a ^^^ s.reg b) (zn s.re (s.reg a ^^^ s.reg b))) ∧
    exec (.test a b) s = .next (flagsOnly s (zn s.re (s.reg a &&& s.reg b)))

/-! ## Shifts -/

/-- SHR, SHL, ROR, ROL, RORC, ROLC: the source's action line gives the register, C is the bit shifted out, Z and
N come from the result; nothing else changes but pc and ds (42_shift.md R181, R182, R185 to R188). -/
def Obligations.ShiftInstructions : Prop :=
  ∀ (s : State) (d : Reg),
    let v := s.reg d
    let right := fun r => Host.Outcome.next (writes s d r (zcn s.re r (v.getLsbD 0)))
    let left := fun r => Host.Outcome.next (writes s d r (zcn s.re r (v.getLsbD 15)))
    exec (.shr d) s = right (v >>> 1) ∧ exec (.shl d) s = left (v <<< 1) ∧
    exec (.ror d) s = right (v >>> 1 ||| (v &&& 1) <<< 15) ∧ exec (.rol d) s = left (v <<< 1 ||| v >>> 15) ∧
    exec (.rorc d) s = right (v >>> 1 ||| bitAt0 s.re.c <<< 15) ∧
    exec (.rolc d) s = left (v <<< 1 ||| bitAt0 s.re.c)

/-- SHRA and SHLA: SHRA is SHR in value under SHRA_FILL = zero and the halving of a signed number under sign;
SHLA doubles; C is the bit shifted out; O is 1 exactly when the sign changed, which for SHLA is when the double does
not fit; SHLA op has the effect of ADD op, op, op (42_shift.md R183, R184). The settings of SHRA_FILL and the rule for
O are the spec's decisions D7 and D6 (log 10, log 11). -/
def Obligations.ArithmeticShifts : Prop :=
  ∀ (s : State) (d : Reg),
    let v := s.reg d
    (s.params.shraFill = .zero →
      exec (.shra d) s = .next (writes s d (v >>> 1) (zcno s.re (v >>> 1) (v.getLsbD 0) (v.getLsbD 15)))) ∧
    (s.params.shraFill = .sign →
      exec (.shra d) s = .next (writes s d (v.sshiftRight 1) (zcno s.re (v.sshiftRight 1) (v.getLsbD 0) false))) ∧
    exec (.shla d) s =
      .next
        (writes s d (v <<< 1)
          (zcno s.re (v <<< 1) (v.getLsbD 15) (decide (2 * v.toInt < -32768 ∨ 32767 < 2 * v.toInt)))) ∧
    exec (.shla d) s = exec (.add d d d) s

/-- A register and C are one ring of 17 bits: RORC and ROLC undo each other; and SHL of the low word then ROLC of
the high word shifts a 32-bit value left by one (42_shift.md R187, R188). -/
def Obligations.RotateThroughCarry : Prop :=
  ∀ (s : State) (d lo : Reg), d ≠ .r0 →
    (∃ t, runAll [.rorc d, .rolc d] s = .next t ∧ t.reg d = s.reg d ∧ t.re.c = s.re.c) ∧
    (∃ t, runAll [.rolc d, .rorc d] s = .next t ∧ t.reg d = s.reg d ∧ t.re.c = s.re.c) ∧
    (lo ≠ .r0 → d ≠ lo →
      ∃ t, runAll [.shl lo, .rolc d] s = .next t ∧
        wide (t.reg d) (t.reg lo) = (2 * wide (s.reg d) (s.reg lo)) % 4294967296 ∧
        (t.re.c = true ↔ 2147483648 ≤ wide (s.reg d) (s.reg lo)))

/-! ## Control -/

/-- BR and BR.cond: a taken jump leaves pc at the delay slot and its target, the jump's own address plus the
displacement, pending; one not taken leaves nothing pending; nothing else changes (43_control.md R202, R203, R201;
the conditions .P and .NP are decision D8, log 12). That these six have a delay slot is DELAY_SLOT_SET, decision D9,
log 13; a jump that another setting gives none goes to its target at once. -/
def Obligations.RelativeJumps : Prop :=
  ∀ (s : State) (d : BitVec 8), s.ds = none →
    let target : Word := BitVec.ofInt 16 (s.pc.toNat + d.toInt)
    exec (.br d) s = .next (sentTo s .br target) ∧
    ∀ k : Cond,
      (holds k s.re → exec (brWhen k d) s = .next (sentTo s .brCond target)) ∧
      (¬holds k s.re → exec (brWhen k d) s = .next { s with pc := inPc s (s.pc + 1) })

/-- JMP and JMP.cond: the target is the register's whole value, pending in the delay slot, or at once where another
DELAY_SLOT_SET gives none (43_control.md R204, R205, R201; log 12, log 13). -/
def Obligations.AbsoluteJumps : Prop :=
  ∀ (s : State) (r : Reg), s.ds = none →
    exec (.jmp r) s = .next (sentTo s .jmp (s.reg r)) ∧
    ∀ k : Cond,
      (holds k s.re → exec (jmpWhen k r) s = .next (sentTo s .jmpCond (s.reg r))) ∧
      (¬holds k s.re → exec (jmpWhen k r) s = .next { s with pc := inPc s (s.pc + 1) })

/-- JAL and JAL.cond: R7 receives the jump's own address plus LINK_OFFSET, as pc holds it, and the target is the
register's value before that; not taken, R7 keeps its value (43_control.md R206, R207; LINK_OFFSET is decision D10,
log 14; DELAY_SLOT_SET is D9, log 13). -/
def Obligations.Calls : Prop :=
  ∀ (s : State) (r : Reg), s.ds = none →
    let link := inPc s (s.pc + (match s.params.linkOffset with | .one => 1 | .two => 2))
    let linked := { s with regs := { s.regs with r7 := link } }
    exec (.jal r) s = .next (sentTo linked .jal (s.reg r)) ∧
    ∀ k : Cond,
      (holds k s.re → exec (jalWhen k r) s = .next (sentTo linked .jalCond (s.reg r))) ∧
      (¬holds k s.re → exec (jalWhen k r) s = .next { s with pc := inPc s (s.pc + 1) })

/-- INT k: PC_E receives the address after the INT, RE_E the status bits, E falls, control goes to 7F00h + k, whatever E
and IM are; IP, IM, the registers, both memories and the devices keep their values; Z, C, N, O are left open
(43_control.md R209; E falling and the free flags are decision D14, log 17). INT acts at once, decision D9, unless
another DELAY_SLOT_SET gives it a slot, when the routine's address is pending (log 13). -/
def Obligations.SoftwareInterrupt : Prop :=
  ∀ (s : State) (k : BitVec 8), s.ds = none →
    ∃ t, exec (.int k) s = .next t ∧ t.pcE = inPc s (s.pc + 1) ∧ t.reE = s.re ∧ t.re.e = false ∧
      (t.pc, t.ds) = (let u := sentTo s .int (BitVec.ofNat 16 (0x7F00 + k.toNat)); (u.pc, u.ds)) ∧
      (.int ∉ s.params.delaySlotSet → t.pc.toNat = 0x7F00 + k.toNat ∧ t.ds = none) ∧
      t.ip = s.ip ∧ t.im = s.im ∧ (∀ r, t.reg r = s.reg r) ∧
      (∀ a, Memory.octet t.dmem a = Memory.octet s.dmem a) ∧ t.pmem = s.pmem ∧ t.dev = s.dev

/-- RTI: control and all five status bits come back from PC_E and RE_E, and nothing else changes (43_control.md R208;
60_exceptions.md R270). RTI acts at once, decision D9, unless another DELAY_SLOT_SET gives it a slot (log 13). -/
def Obligations.ReturnFromInterrupt : Prop :=
  ∀ s : State, s.ds = none →
    exec .rti s = .next (sentTo { s with re := s.reE } .rti s.pcE) ∧
    (.rti ∉ s.params.delaySlotSet → exec .rti s = .next { s with pc := inPc s s.pcE, re := s.reE })

/-! ## Transfer -/

/-- MOV copies a register and changes no status bit (44_transfer.md R230). -/
def Obligations.Move : Prop :=
  ∀ (s : State) (d a : Reg), exec (.mov d a) s = .next (writes s d (s.reg a) s.re)

/-- The constants of MVI, MVIH and MVIL, for every constant that the source allows: MVI gives all 16 bits, MVIH the
high byte, MVIL the low byte, each byte being the constant modulo 256 (44_transfer.md R233, R234, R235; 30_encoding.md
R84; decisions D24, D38, log 27). -/
def Obligations.Constants : Prop :=
  ∀ (s : State) (d : Reg) (c : Int), -128 ≤ c → c ≤ 255 →
    (Instr.mvi d (BitVec.ofInt 9 c)).wellFormed = true ∧
    exec (.mvi d (BitVec.ofInt 9 c)) s = .next (writes s d (BitVec.ofInt 16 c) s.re) ∧
    exec (.mvih d (BitVec.ofInt 8 c)) s =
      .next (writes s d (BitVec.ofNat 16 (256 * (c % 256).toNat + (s.reg d).toNat % 256)) s.re) ∧
    exec (.mvil d (BitVec.ofInt 8 c)) s =
      .next (writes s d (BitVec.ofNat 16 (256 * ((s.reg d).toNat / 256) + (c % 256).toNat)) s.re)

/-- Every constant MVI accepts, whatever MVI_PAIR_ORDER: what the assembler makes of it leaves the constant modulo 2^16
in the register, whatever the register held, and every other register and the status bits as they were
(35_assembler.md R132; 44_transfer.md R233; log 38). -/
def Obligations.WideConstant : Prop :=
  ∀ (order : Config.MviPairOrder) (s : State) (d : Reg) (c : Int), -32768 ≤ c → c ≤ 65535 →
    ∃ t, runAll (expandMvi order d c) s = .next t ∧ (d ≠ .r0 → t.reg d = BitVec.ofInt 16 c) ∧
      (∀ q, q ≠ d → t.reg q = s.reg q) ∧ t.re = s.re

/-- LOAD below FF00h: the word at the position that the low 15 bits of the address select, and nothing else
changes but pc and ds (44_transfer.md R231; 20_memory.md R52, R53; the window's precedence is decision D19, log 21). -/
def Obligations.LoadFromMemory : Prop :=
  ∀ (s : State) (d x : Reg), (s.reg x).toNat < 0xFF00 →
    exec (.load d x) s = .next (writes s d (Memory.word s.dmem ((s.reg x).toNat % 32768)) s.re)

/-- STOR below FF00h: the two octets of the position that the low 15 bits of the address select hold the register's
two bytes; every other octet of data memory, program memory, every register, status bit, special register and
device is as before (44_transfer.md R232; 20_memory.md R52, R54, R58; octets are log 2, the window log 21). -/
def Obligations.StoreToMemory : Prop :=
  ∀ (s : State) (x y : Reg), (s.reg x).toNat < 0xFF00 →
    ∃ m, exec (.stor x y) s = .next { s with dmem := m, pc := nextPc s, ds := none } ∧
      (let n := position (s.reg x)
       n = (s.reg x).toNat % 32768 ∧
       (Memory.octet m (2 * n)).toNat = (s.reg y).toNat % 256 ∧
       (Memory.octet m (2 * n + 1)).toNat = (s.reg y).toNat / 256 ∧
       (∀ a, a ≠ 2 * n → a ≠ 2 * n + 1 → Memory.octet m a = Memory.octet s.dmem a) ∧
       Memory.word m n = s.reg y ∧ ∀ k, k ≠ n → Memory.word m k = Memory.word s.dmem k)

/-- The window never reaches data memory: a LOAD or a STOR at FF00h or above completes with every octet of data
memory, program memory, the status bits, PC_E, RE_E and IP as before (20_memory.md R52; decision D19, log 21). That it
completes at a port that Tabela 3 does not describe too is THE MODEL'S CHOICE, the laxer instance that 61_io_devices.md
R339 allows (log 22). -/
def Obligations.WindowSparesMemory : Prop :=
  ∀ (s : State) (x y : Reg) (i : Instr), 0xFF00 ≤ (s.reg x).toNat → i = .stor x y ∨ i = .load y x →
    ∃ t, exec i s = .next t ∧ (∀ a, Memory.octet t.dmem a = Memory.octet s.dmem a) ∧ t.pmem = s.pmem ∧
      t.re = s.re ∧ t.pcE = s.pcE ∧ t.reE = s.reE ∧ t.ip = s.ip ∧
      (∀ q, i = .stor x y ∨ q ≠ y → t.reg q = s.reg q)

/-- A STOR to 8000h writes position 0000h; LOADs from FE00h and from 7E00h read the same position, and a LOAD
right after a STOR, neither address in the window, returns what was stored exactly where the two addresses select
one position (20_memory.md R55; R64 (1), which is the spec's decision D22, log 26). -/
def Obligations.LoadsAndStoresMeet : Prop :=
  ∀ (s : State) (x y z d : Reg),
    (s.reg x = 0x8000 → ∃ t, exec (.stor x y) s = .next t ∧ Memory.word t.dmem 0 = s.reg y) ∧
    (s.reg x = 0xFE00 → s.reg y = 0x7E00 →
      exec (.load d x) s = exec (.load d y) s ∧
      exec (.load d x) s = .next (writes s d (Memory.word s.dmem 0x7E00) s.re)) ∧
    ((s.reg x).toNat < 0xFF00 → (s.reg z).toNat < 0xFF00 → d ≠ .r0 →
      ∃ t, runAll [.stor x y, .load d z] s = .next t ∧
        t.reg d =
          if (s.reg z).toNat % 32768 = (s.reg x).toNat % 32768 then s.reg y
          else Memory.word s.dmem ((s.reg z).toNat % 32768))

/-! ## Generic -/

/-- NOP, ENI, DSI, STC, CLC, CMC: the status bit each names, and nothing else but pc and ds (45_generic.md R250 to
R255). -/
def Obligations.GenericInstructions : Prop :=
  ∀ s : State,
    exec .nop s = .next (flagsOnly s s.re) ∧ exec .eni s = .next (flagsOnly s { s.re with e := true }) ∧
    exec .dsi s = .next (flagsOnly s { s.re with e := false }) ∧
    exec .stc s = .next (flagsOnly s { s.re with c := true }) ∧
    exec .clc s = .next (flagsOnly s { s.re with c := false }) ∧
    exec .cmc s = .next (flagsOnly s { s.re with c := !s.re.c })

/-! ## Frames over all instructions -/

/-- A status bit that the "Flags:" line of an instruction does not list is left unchanged by it; and but for the
instructions said to read status bits, what an instruction does, the status bits it writes among it, is the same whatever
the status bits were (10_state.md R30). -/
def Obligations.FlagsLines : Prop :=
  ∀ (i : Instr) (s t : State), exec i s = .next t →
    (((flagLine i).e = false → t.re.e = s.re.e) ∧ ((flagLine i).z = false → t.re.z = s.re.z) ∧
     ((flagLine i).c = false → t.re.c = s.re.c) ∧ ((flagLine i).n = false → t.re.n = s.re.n) ∧
     ((flagLine i).o = false → t.re.o = s.re.o)) ∧
    (readsFlags i = false → ∀ f : Flags, ∃ u, exec i (s.setRe f) = .next u ∧ { u with re := t.re } = t ∧
      ((flagLine i).e = true → u.re.e = t.re.e) ∧ ((flagLine i).z = true → u.re.z = t.re.z) ∧
      ((flagLine i).c = true → u.re.c = t.re.c) ∧ ((flagLine i).n = true → u.re.n = t.re.n) ∧
      ((flagLine i).o = true → u.re.o = t.re.o))

/-- The registers an instruction uses are those the table of 10_state.md R22 names. Every register but the one written
keeps its value; and another value in a register that is not read gives the same outcome, but for that register, and
for a register written without a condition the very same. -/
def Obligations.RegistersReadAndWritten : Prop :=
  ∀ (i : Instr) (s t : State) (q : Reg), exec i s = .next t →
    (writtenReg i ≠ some q → t.reg q = s.reg q) ∧
    (q ∉ readRegs i → ∀ v : Word, ∃ u, exec i (s.setReg q v) = .next u ∧ sameBut q t u ∧
      (writtenReg i = some q → (∀ k r, i ≠ jalWhen k r) → u = t))

/-- What an instruction leaves alone: only STOR changes data memory, only LOAD and STOR change a device, only STOR
changes the mask, only INT writes PC_E and RE_E, and no instruction changes program memory or the pending bits
(20_memory.md R51, R58, R61; 10_state.md R32; 60_exceptions.md R270, R281). -/
def Obligations.SpecialStateFrame : Prop :=
  ∀ (i : Instr) (s t : State), exec i s = .next t →
    (¬isStor i → ∀ a, Memory.octet t.dmem a = Memory.octet s.dmem a) ∧ (¬isStor i → t.im = s.im) ∧
    (¬isLoad i → ¬isStor i → t.dev = s.dev) ∧ ((∀ k, i ≠ .int k) → t.pcE = s.pcE ∧ t.reE = s.reE) ∧
    t.ip = s.ip ∧ (∀ a, sparseRead t.pmem a = sparseRead s.pmem a) ∧ t.params = s.params ∧ t.inputs = s.inputs

/-- No store can change what a later fetch returns: no step, whatever it does, changes program memory, and so the
instruction at no program address (20_memory.md R61). -/
def Obligations.ProgramMemoryFixed : Prop :=
  ∀ s t : State, step s = .next t →
    (∀ a, sparseRead t.pmem a = sparseRead s.pmem a) ∧
    ∀ a : Word, Memory.loadedWord t.pmem (position a) = Memory.loadedWord s.pmem (position a)

/-- E changes by ENI, DSI, INT and RTI, by an interrupt entry and by Reset, and by nothing else
(60_exceptions.md R265; 10_state.md R30; that an entry clears E is decision D14, log 17). -/
def Obligations.EnableChanges : Prop :=
  ∀ s t : State, step s = .next t → t.re.e ≠ s.re.e →
    resetDue s ∨ (∃ v, s.deliver.accepted = some v) ∨
    ∃ w i, s.deliver.fetchWord = some w ∧ decodeBy s.params.encoding w = .ok i ∧
      (i = .eni ∨ i = .dsi ∨ i = .rti ∨ ∃ k, i = .int k)

/-! ## Ports -/

/-- The reads of Tabela 3 without a side effect: key status, mask, switches, timer state, timer count, accelerometer;
a LOAD there writes its register and changes nothing else but pc and ds (61_io_devices.md R301, R305, R318, R319, R321,
R323, R332; bits no device gives read 0: decision D20, log 23). -/
def Obligations.QuietPortReads : Prop :=
  ∀ (s : State) (d x : Reg) (v : Word), (s.reg x, v) ∈ quietReads s →
    exec (.load d x) s = .next (writes s d v s.re)

/-- The read of FFFFh gives the last key or 0, clears the key flag also when the register is R0, and changes nothing
else; a second read gives 0 (61_io_devices.md R303). -/
def Obligations.LastKeyRead : Prop :=
  ∀ (s : State) (d x : Reg), s.reg x = 0xFFFF →
    exec (.load d x) s =
      .next
        { s with
          regs := s.regs.set d (if s.dev.term.keyFlag = true then s.dev.term.key else 0)
          pc := nextPc s
          ds := none
          dev := { s.dev with term := { s.dev.term with keyFlag := false } } } ∧
    (d ≠ x → d ≠ .r0 → ∃ t, runAll [.load d x, .load d x] s = .next t ∧ t.reg d = 0)

/-- The mask port: what a STOR to FFFAh writes is the mask, nothing else changes, a LOAD reads it back, and vector v
can be taken afterwards only where bit v of the value written is 1 (61_io_devices.md R318). -/
def Obligations.MaskPort : Prop :=
  ∀ (s : State) (x y : Reg), s.reg x = 0xFFFA →
    (let t := { s with im := s.reg y, pc := nextPc s, ds := none }
     exec (.stor x y) s = .next t ∧
       ∀ v, v < 16 → t.takeable v = (s.ip.getLsbD v && s.re.e && (s.reg y).getLsbD v)) ∧
    ∀ d : Reg, d ≠ .r0 → ∃ t, runAll [.stor x y, .load d x] s = .next t ∧ t.reg d = s.reg y

/-- The output ports that hold what is written: LED, timer control and duration, colours, displays, LCD control. Each
STOR changes its own device and nothing else but pc and ds (61_io_devices.md R324, R321, R323, R307, R330, R327). A
start from zero elapsed time is decision D29, log 30; that unused bits are ignored is D20, log 23; what one write of
FFF4h does with several of its fields, and its bits 14 to 6, is log 29. -/
def Obligations.OutputPorts : Prop :=
  ∀ (s : State) (x y : Reg),
    let v := s.reg y
    let gives := fun (a : Word) (d : Devices) =>
      s.reg x = a → exec (.stor x y) s = .next { s with dev := d, pc := nextPc s, ds := none }
    gives 0xFFF8 { s.dev with led := v.extractLsb' 0 10 } ∧
    gives 0xFFF7
      { s.dev with
        timer :=
          if v.getLsbD 0 then { s.dev.timer with run := true, elapsed := 0 } else { s.dev.timer with run := false } } ∧
    gives 0xFFF6 { s.dev with timer := { s.dev.timer with duration := v } } ∧
    gives 0xFFFB { s.dev with term := { s.dev.term with bg := v.extractLsb' 8 8, fg := v.extractLsb' 0 8 } } ∧
    gives 0xFFF0 { s.dev with disp := { s.dev.disp with d0 := v.extractLsb' 0 4 } } ∧
    gives 0xFFF1 { s.dev with disp := { s.dev.disp with d1 := v.extractLsb' 0 4 } } ∧
    gives 0xFFF2 { s.dev with disp := { s.dev.disp with d2 := v.extractLsb' 0 4 } } ∧
    gives 0xFFF3 { s.dev with disp := { s.dev.disp with d3 := v.extractLsb' 0 4 } } ∧
    gives 0xFFEE { s.dev with disp := { s.dev.disp with d4 := v.extractLsb' 0 4 } } ∧
    gives 0xFFEF { s.dev with disp := { s.dev.disp with d5 := v.extractLsb' 0 4 } } ∧
    gives 0xFFF4
      { s.dev with
        lcd :=
          { on := v.getLsbD 15
            cells := if v.getLsbD 5 then [] else s.dev.lcd.cells
            line := v.toNat / 16 % 2
            col := v.toNat % 16 } }

/-- A character written to the terminal: it lands at the cursor in the present colours, every other cell keeps its
content, and the cursor moves to the next cell, from the last one back to the first; in every row and column of
the grid (61_io_devices.md R304; no control characters: decision D33, log 28). -/
def Obligations.TerminalCharacter : Prop :=
  ∀ (s : State) (x y : Reg) (row col : Nat), s.reg x = 0xFFFE → s.dev.term.cursor = .at row col → row < 45 →
    col < 80 →
    ∃ c : Terminal, exec (.stor x y) s =
        .next
          { s with
            dev := { s.dev with term := c }
            pc := nextPc s
            ds := none } ∧
      { c with cells := s.dev.term.cells, cursor := s.dev.term.cursor } = s.dev.term ∧
      c.cell (80 * row + col) =
        some { char := (s.reg y).extractLsb' 0 8, fg := s.dev.term.fg, bg := s.dev.term.bg } ∧
      (∀ row' col', row' < 45 → col' < 80 → (row', col') ≠ (row, col) →
        c.cell (80 * row' + col') = s.dev.term.cell (80 * row' + col')) ∧
      c.cursor = .at (((80 * row + col + 1) % 3600) / 80) (((80 * row + col + 1) % 3600) % 80)

/-- The cursor port: an in-range write places the cursor and changes nothing else; one out of range leaves cursor and
screen unspecified and everything else as it was (61_io_devices.md R306; U8 is decision D33, log 28). -/
def Obligations.TerminalCursorPort : Prop :=
  ∀ (s : State) (x y : Reg), s.reg x = 0xFFFC →
    let row := (s.reg y).toNat / 256
    let col := (s.reg y).toNat % 256
    (row ≤ 44 ∧ col ≤ 79 →
      exec (.stor x y) s =
        .next
          { s with
            dev := { s.dev with term := { s.dev.term with cursor := .at row col } }
            pc := nextPc s
            ds := none }) ∧
    (¬(row ≤ 44 ∧ col ≤ 79) →
      ∃ t, exec (.stor x y) s = .next t ∧ (∀ r c, t.dev.term.cursor ≠ .at r c) ∧ t.dev.term.cells = [] ∧
        t.dev.term.base ≠ .blank ∧ t.dev.term.key = s.dev.term.key ∧ t.dev.term.keyFlag = s.dev.term.keyFlag ∧
        t.dev.term.fg = s.dev.term.fg ∧ t.dev.term.bg = s.dev.term.bg ∧
        { t with dev := { t.dev with term := s.dev.term } } = { s with pc := nextPc s, ds := none })

/-- A character written to the LCD: it lands at the cursor, every other cell keeps its content, and the cursor moves
on, from the last cell back to the first; in every line and column (61_io_devices.md R326). That an LCD that is off
takes it too is THE MODEL'S CHOICE, which the source leaves open (R327; log 29). -/
def Obligations.LcdCharacter : Prop :=
  ∀ (s : State) (x y : Reg), s.reg x = 0xFFF5 → s.dev.lcd.line < 2 → s.dev.lcd.col < 16 →
    let here := 16 * s.dev.lcd.line + s.dev.lcd.col
    ∃ l, exec (.stor x y) s = .next { s with dev := { s.dev with lcd := l }, pc := nextPc s, ds := none } ∧
      l.on = s.dev.lcd.on ∧ sparseRead l.cells here = some ((s.reg y).extractLsb' 0 8) ∧
      (∀ k, k ≠ here → sparseRead l.cells k = sparseRead s.dev.lcd.cells k) ∧
      l.line = ((here + 1) % 32) / 16 ∧ l.col = ((here + 1) % 32) % 16

/-- THE MODEL'S CHOICE where the spec offers one (61_io_devices.md R339, the laxer instance; log 22): a read that
Tabela 3 does not describe writes the next free value, whatever it is, to its register, so that each such read has one
of its own, and a write changes nothing; both complete and change nothing else but pc and ds. -/
def Obligations.UndescribedPorts : Prop :=
  ∀ (s : State) (x y : Reg),
    (undescribedRead (s.reg x) →
      exec (.load y x) s =
        .next { writes s y (Config.portRead s.freeCount) s.re with freeCount := s.freeCount + 1 }) ∧
    (undescribedWrite (s.reg x) → exec (.stor x y) s = .next { s with pc := nextPc s, ds := none })

/-- What the screens, LED and displays hold never reaches the program: two machines that differ only there take the
same step but there (61_io_devices.md R340, R341). -/
def Obligations.OutputsInvisible : Prop :=
  ∀ s : State,
    (∀ t, step s = .next t → ∃ u, step (forgetOutputs s) = .next u ∧ forgetOutputs u = forgetOutputs t) ∧
    ∀ r, step s = .refused r → step (forgetOutputs s) = .refused r

/-! ## Interrupts and host events -/

/-- The interrupt taken at a boundary: none while a delayed target is pending or no request is takeable, else one of
the requests with IP, IM and E all 1 (60_exceptions.md R266, R267, R272; decisions D12, D16, log 16, log 19). -/
def Obligations.Acceptance : Prop :=
  ∀ s : State,
    (∀ v, s.accepted = some v →
      s.ds = none ∧ s.re.e = true ∧ v < 16 ∧ s.ip.getLsbD v = true ∧ s.im.getLsbD v = true) ∧
    (s.accepted = none →
      s.ds ≠ none ∨ s.re.e = false ∨ ∀ v, v < 16 → ¬(s.ip.getLsbD v = true ∧ s.im.getLsbD v = true))

/-- A hardware entry: PC_E receives pc, RE_E the status bits, the request is consumed, E falls, pc is 7F00h + 16 v;
the registers, the other requests, IM, both memories and the devices keep their values; Z, C, N, O are left
open (60_exceptions.md R268; decisions D13, D14, log 16, log 17). -/
def Obligations.HardwareEntry : Prop :=
  ∀ (s : State) (v : Nat), s.deliver.accepted = some v →
    ∃ t, step s = .next t ∧ t.pcE = s.deliver.pc ∧ t.reE = s.deliver.re ∧ t.re.e = false ∧
      t.pc.toNat = 0x7F00 + 16 * v ∧ t.ds = none ∧
      (∀ u, t.ip.getLsbD u = (s.deliver.ip.getLsbD u && decide (u ≠ v))) ∧
      t.im = s.deliver.im ∧ (∀ r, t.reg r = s.deliver.reg r) ∧
      (∀ a, Memory.octet t.dmem a = Memory.octet s.deliver.dmem a) ∧ t.pmem = s.pmem ∧ t.dev = s.deliver.dev

/-- A handler that changes neither shadow register and ends in RTI resumes with the status bits it interrupted:
entered by hardware, exactly where the program was, with E = 1; entered by INT, right after the INT
(60_exceptions.md R270, R274; 43_control.md R208, R209). Where DELAY_SLOT_SET gives RTI a slot, that address is the
pending target (log 13). The pc of the program is one that its width holds, which StepKeepsInvariant says of every run. -/
def Obligations.ReturnResumes : Prop :=
  ∀ s t u : State, u.pcE = t.pcE → u.reE = t.reE → u.ds = none → u.params = s.params → inPc s s.pc = s.pc →
    let resumes := fun (w : State) (a : Word) =>
      if .rti ∈ s.params.delaySlotSet then w.ds = some a else w.pc = a ∧ w.ds = none
    (∀ v, s.deliver.accepted = some v → step s = .next t →
      ∃ w, exec .rti u = .next w ∧ resumes w s.deliver.pc ∧ w.re = s.deliver.re ∧ w.re.e = true) ∧
    ∀ k, exec (.int k) s = .next t →
      ∃ w, exec .rti u = .next w ∧ resumes w (inPc s (s.pc + 1)) ∧ w.re = s.re

/-- Where the routines stand: that of vector v at 7F00h + 16 v, so that sixteen positions from there belong to no
other vector; that of INT k at 7F00h + k, reached at once, or after the slot that another DELAY_SLOT_SET gives INT
(60_exceptions.md R262; log 13). -/
def Obligations.HandlerAddresses : Prop :=
  (∀ v u : Nat, v < 16 → u < 16 →
    (handlerAddress v).toNat = 0x7F00 + 16 * v ∧
    (v ≠ u → ∀ n, n < 16 → ∀ m, m < 16 →
      position (handlerAddress v + BitVec.ofNat 16 n) ≠ position (handlerAddress u + BitVec.ofNat 16 m))) ∧
  (∀ (s : State) (v : Nat), s.deliver.accepted = some v → ∃ t, step s = .next t ∧ t.pc = handlerAddress v) ∧
  ∀ (s : State) (k : BitVec 8), s.ds = none →
    ∃ t, exec (.int k) s = .next t ∧
      if .int ∈ s.params.delaySlotSet then t.ds.map BitVec.toNat = some (0x7F00 + k.toNat)
      else t.pc.toNat = 0x7F00 + k.toNat

/-- A request under both settings of IRQ_POLICY: latch remembers it; drop remembers it only where E and the mask bit
are 1 at that moment; no other request, and nothing else, changes (60_exceptions.md R263, R273; decision D15, log 18). -/
def Obligations.RequestPolicy : Prop :=
  ∀ (s : State) (v : Nat), v < 16 →
    { s.raise v with ip := s.ip } = s ∧ (∀ u, u ≠ v → (s.raise v).ip.getLsbD u = s.ip.getLsbD u) ∧
    (s.params.irqPolicy = .latch → (s.raise v).ip.getLsbD v = true) ∧
    (s.params.irqPolicy = .drop →
      (s.raise v).ip.getLsbD v = (s.ip.getLsbD v || (s.re.e && s.im.getLsbD v)))

/-- A timer tick: a running timer counts; at the tick that reaches the duration it stops and raises vector Fh, and at
none before; nothing but the timer and the pending bits changes (61_io_devices.md R322; 80_host_simulator.md R388;
one-shot is decision D29, log 30). -/
def Obligations.TimerTick : Prop :=
  ∀ s : State,
    (s.dev.timer.run = false → s.timerTick = s) ∧
    { s.timerTick with ip := s.ip, dev := { s.timerTick.dev with timer := s.dev.timer } } = s ∧
    (s.dev.timer.run = true →
      s.timerTick.dev.timer.elapsed = s.dev.timer.elapsed + 1 ∧
      s.timerTick.dev.timer.duration = s.dev.timer.duration ∧
      (s.dev.timer.elapsed + 1 < s.dev.timer.duration.toNat →
        s.timerTick.dev.timer.run = true ∧ s.timerTick.ip = s.ip) ∧
      (s.dev.timer.duration.toNat ≤ s.dev.timer.elapsed + 1 →
        s.timerTick.dev.timer.run = false ∧ s.timerTick.ip = (s.raise 15).ip))

/-- The host's events, each with all it changes: a button raises its vector; a key is kept as the last one, sets the key
flag and raises vector 7; a switch changes its own bit of the switch word; the accelerometer its three words; a tick is
the timer's; Reset is the reset of the machine. The events of a boundary are applied in their order, before the rest of
the step, and leave the stream (80_host_simulator.md R388; 61_io_devices.md R308, R335, R319, R332, R322; 10_state.md
R28; log 31, log 33). -/
def Obligations.HostEvents : Prop :=
  ∀ (s : State),
    (∀ p ∈ [(Button.key0, 0), (Button.key1, 1), (Button.right, 2), (Button.up, 3), (Button.down, 4),
        (Button.left, 5), (Button.select, 6)], s.applyEvent (.button p.1) = s.raise p.2) ∧
    (∀ k : Word,
      s.applyEvent (.key k) =
        { s with
          dev := { s.dev with term := { s.dev.term with key := k, keyFlag := true } }
          ip := (s.raise 7).ip }) ∧
    (∀ (i : Fin 10) (up : Bool),
      (∀ j, (s.applyEvent (.switch i up)).dev.sw.getLsbD j = if j = i.val then up else s.dev.sw.getLsbD j) ∧
      { s.applyEvent (.switch i up) with dev := { (s.applyEvent (.switch i up)).dev with sw := s.dev.sw } } = s) ∧
    (∀ a b c : Word, s.applyEvent (.accel a b c) = { s with dev := { s.dev with accX := a, accY := b, accZ := c } }) ∧
    s.applyEvent .tick = s.timerTick ∧ s.applyEvent .reset = s.hostReset ∧
    ∀ (events : List HostEvent) (later : List (List HostEvent)), s.inputs = events :: later →
      s.deliver = events.foldl State.applyEvent { s with inputs := later } ∧ s.deliver.inputs = later

/-- A running simulator applies the events of the boundary, which changes nothing of the step to come; then it stops
before an instruction that has a breakpoint, once, with nothing else of the machine changed; where there is none, or
after Start has been pressed there, it performs one step of the machine and runs on. Step performs one step whatever the
breakpoints are, and stops. A stopped simulator does nothing, and takes no tick (80_host_simulator.md R386, R381 to
R383; breakpoints by position are log 42, their place after the events is log 51, that Step stops
a running simulator is log 55, the ticks are decision D29). -/
def Obligations.Breakpoints : Prop :=
  ∀ m : Sim,
    let b := m.deliverNow
    step b.machine = step m.machine ∧ b.breakpoints = m.breakpoints ∧ (m.machine.inputs = [] → b = m) ∧
    (m.running = true → position b.machine.pc ∈ m.breakpoints → b.passed = false →
      ∃ n, m.proceed = .next n ∧ n.machine = b.machine ∧ n.running = false ∧ n.breakpoints = m.breakpoints ∧
        ∀ t, step m.machine = .next t →
          ∃ n', n.start.proceed = .next n' ∧ n'.machine = t ∧ n'.running = true) ∧
    (m.running = true → position b.machine.pc ∉ m.breakpoints ∨ b.passed = true →
      ∀ t, step m.machine = .next t →
        ∃ n, m.proceed = .next n ∧ n.machine = t ∧ n.running = true ∧ n.passed = false) ∧
    (∀ t, step m.machine = .next t →
      ∃ n, m.stepOnce = .next n ∧ n.machine = t ∧ n.running = false ∧ n.passed = false) ∧
    (m.running = false → m.proceed = .next m ∧ m.give .tick = m)

/-! ## Invariants -/

/-- The reset state meets the invariant of the machine and has no request on vectors 8h to Eh (20_memory.md R50;
61_io_devices.md R302, R325; 10_state.md R24; 60_exceptions.md R261). -/
def Obligations.InvariantAtReset : Prop := State.reset.Inv ∧ noUnwiredRequest State.reset

/-- Every step keeps the invariant of the machine: both memories keep their canonical form within 32768 words, the
terminal's cells and cursor stay in the 45 by 80 grid and the LCD's in the 2 by 16 one, and pc and PC_E stay within the
width of the program counter (20_memory.md R50; 61_io_devices.md R302, R306, R325; 10_state.md R24; log 4). -/
def Obligations.StepKeepsInvariant : Prop := ∀ s t : State, s.Inv → step s = .next t → t.Inv

/-- No request is ever raised on vectors 8h to Eh: every step, with every host event, keeps them clear, and so no
entry is ever for one of them (60_exceptions.md R261). -/
def Obligations.UnwiredVectorsStayClear : Prop :=
  ∀ s t : State, noUnwiredRequest s → step s = .next t →
    noUnwiredRequest t ∧ ∀ v, s.deliver.accepted = some v → v ≤ 7 ∨ v = 15
end

