-- ==== Sys2Proof/Laws/State.lean ====
section
/-! SUPPORT. Every field after every update of the state, true by rfl. -/

namespace Sys2Proof.Machine

/-! ### After `setReg` -/

@[simp] theorem State.setReg_regs (s : State) (r : Reg) (v : Word) : (s.setReg r v).regs = s.regs.set r v := rfl
@[simp] theorem State.setReg_pc (s : State) (r : Reg) (v : Word) : (s.setReg r v).pc = s.pc := rfl
@[simp] theorem State.setReg_ds (s : State) (r : Reg) (v : Word) : (s.setReg r v).ds = s.ds := rfl
@[simp] theorem State.setReg_re (s : State) (r : Reg) (v : Word) : (s.setReg r v).re = s.re := rfl
@[simp] theorem State.setReg_pcE (s : State) (r : Reg) (v : Word) : (s.setReg r v).pcE = s.pcE := rfl
@[simp] theorem State.setReg_reE (s : State) (r : Reg) (v : Word) : (s.setReg r v).reE = s.reE := rfl
@[simp] theorem State.setReg_im (s : State) (r : Reg) (v : Word) : (s.setReg r v).im = s.im := rfl
@[simp] theorem State.setReg_ip (s : State) (r : Reg) (v : Word) : (s.setReg r v).ip = s.ip := rfl
@[simp] theorem State.setReg_pmem (s : State) (r : Reg) (v : Word) : (s.setReg r v).pmem = s.pmem := rfl
@[simp] theorem State.setReg_dmem (s : State) (r : Reg) (v : Word) : (s.setReg r v).dmem = s.dmem := rfl
@[simp] theorem State.setReg_dev (s : State) (r : Reg) (v : Word) : (s.setReg r v).dev = s.dev := rfl
@[simp] theorem State.setReg_inputs (s : State) (r : Reg) (v : Word) : (s.setReg r v).inputs = s.inputs := rfl
@[simp] theorem State.setReg_params (s : State) (r : Reg) (v : Word) : (s.setReg r v).params = s.params := rfl
@[simp] theorem State.setReg_freeCount (s : State) (r : Reg) (v : Word) :
    (s.setReg r v).freeCount = s.freeCount := rfl

/-! ### After `setRe` -/

@[simp] theorem State.setRe_regs (s : State) (f : Flags) : (s.setRe f).regs = s.regs := rfl
@[simp] theorem State.setRe_pc (s : State) (f : Flags) : (s.setRe f).pc = s.pc := rfl
@[simp] theorem State.setRe_ds (s : State) (f : Flags) : (s.setRe f).ds = s.ds := rfl
@[simp] theorem State.setRe_re (s : State) (f : Flags) : (s.setRe f).re = f := rfl
@[simp] theorem State.setRe_pcE (s : State) (f : Flags) : (s.setRe f).pcE = s.pcE := rfl
@[simp] theorem State.setRe_reE (s : State) (f : Flags) : (s.setRe f).reE = s.reE := rfl
@[simp] theorem State.setRe_im (s : State) (f : Flags) : (s.setRe f).im = s.im := rfl
@[simp] theorem State.setRe_ip (s : State) (f : Flags) : (s.setRe f).ip = s.ip := rfl
@[simp] theorem State.setRe_pmem (s : State) (f : Flags) : (s.setRe f).pmem = s.pmem := rfl
@[simp] theorem State.setRe_dmem (s : State) (f : Flags) : (s.setRe f).dmem = s.dmem := rfl
@[simp] theorem State.setRe_dev (s : State) (f : Flags) : (s.setRe f).dev = s.dev := rfl
@[simp] theorem State.setRe_inputs (s : State) (f : Flags) : (s.setRe f).inputs = s.inputs := rfl
@[simp] theorem State.setRe_params (s : State) (f : Flags) : (s.setRe f).params = s.params := rfl
@[simp] theorem State.setRe_freeCount (s : State) (f : Flags) : (s.setRe f).freeCount = s.freeCount := rfl
@[simp] theorem State.setRe_reg (s : State) (f : Flags) (q : Reg) : (s.setRe f).reg q = s.reg q := by cases q <;> rfl

/-! ### After `setPc` -/

@[simp] theorem State.setPc_regs (s : State) (a : Word) : (s.setPc a).regs = s.regs := rfl
@[simp] theorem State.setPc_pc (s : State) (a : Word) : (s.setPc a).pc = fitPc s.params.pcWidth a := rfl
@[simp] theorem State.setPc_ds (s : State) (a : Word) : (s.setPc a).ds = s.ds := rfl
@[simp] theorem State.setPc_re (s : State) (a : Word) : (s.setPc a).re = s.re := rfl
@[simp] theorem State.setPc_pcE (s : State) (a : Word) : (s.setPc a).pcE = s.pcE := rfl
@[simp] theorem State.setPc_reE (s : State) (a : Word) : (s.setPc a).reE = s.reE := rfl
@[simp] theorem State.setPc_im (s : State) (a : Word) : (s.setPc a).im = s.im := rfl
@[simp] theorem State.setPc_ip (s : State) (a : Word) : (s.setPc a).ip = s.ip := rfl
@[simp] theorem State.setPc_pmem (s : State) (a : Word) : (s.setPc a).pmem = s.pmem := rfl
@[simp] theorem State.setPc_dmem (s : State) (a : Word) : (s.setPc a).dmem = s.dmem := rfl
@[simp] theorem State.setPc_dev (s : State) (a : Word) : (s.setPc a).dev = s.dev := rfl
@[simp] theorem State.setPc_inputs (s : State) (a : Word) : (s.setPc a).inputs = s.inputs := rfl
@[simp] theorem State.setPc_params (s : State) (a : Word) : (s.setPc a).params = s.params := rfl
@[simp] theorem State.setPc_freeCount (s : State) (a : Word) : (s.setPc a).freeCount = s.freeCount := rfl
@[simp] theorem State.setPc_reg (s : State) (a : Word) (q : Reg) : (s.setPc a).reg q = s.reg q := by cases q <;> rfl

/-! ### After `advance` -/

@[simp] theorem State.advance_regs (s : State) : (s.advance).regs = s.regs := rfl
@[simp] theorem State.advance_pc (s : State) : (s.advance).pc = fitPc s.params.pcWidth (s.ds.getD (s.pc + 1)) := rfl
@[simp] theorem State.advance_ds (s : State) : (s.advance).ds = none := rfl
@[simp] theorem State.advance_re (s : State) : (s.advance).re = s.re := rfl
@[simp] theorem State.advance_pcE (s : State) : (s.advance).pcE = s.pcE := rfl
@[simp] theorem State.advance_reE (s : State) : (s.advance).reE = s.reE := rfl
@[simp] theorem State.advance_im (s : State) : (s.advance).im = s.im := rfl
@[simp] theorem State.advance_ip (s : State) : (s.advance).ip = s.ip := rfl
@[simp] theorem State.advance_pmem (s : State) : (s.advance).pmem = s.pmem := rfl
@[simp] theorem State.advance_dmem (s : State) : (s.advance).dmem = s.dmem := rfl
@[simp] theorem State.advance_dev (s : State) : (s.advance).dev = s.dev := rfl
@[simp] theorem State.advance_inputs (s : State) : (s.advance).inputs = s.inputs := rfl
@[simp] theorem State.advance_params (s : State) : (s.advance).params = s.params := rfl
@[simp] theorem State.advance_freeCount (s : State) : (s.advance).freeCount = s.freeCount := rfl
@[simp] theorem State.advance_reg (s : State) (q : Reg) : (s.advance).reg q = s.reg q := by cases q <;> rfl

/-! ### After `jumpTo` -/

@[simp] theorem State.jumpTo_regs (s : State) (t : Word) : (s.jumpTo t).regs = s.regs := rfl
@[simp] theorem State.jumpTo_pc (s : State) (t : Word) : (s.jumpTo t).pc = s.pc := rfl
@[simp] theorem State.jumpTo_ds (s : State) (t : Word) : (s.jumpTo t).ds = some t := rfl
@[simp] theorem State.jumpTo_re (s : State) (t : Word) : (s.jumpTo t).re = s.re := rfl
@[simp] theorem State.jumpTo_pcE (s : State) (t : Word) : (s.jumpTo t).pcE = s.pcE := rfl
@[simp] theorem State.jumpTo_reE (s : State) (t : Word) : (s.jumpTo t).reE = s.reE := rfl
@[simp] theorem State.jumpTo_im (s : State) (t : Word) : (s.jumpTo t).im = s.im := rfl
@[simp] theorem State.jumpTo_ip (s : State) (t : Word) : (s.jumpTo t).ip = s.ip := rfl
@[simp] theorem State.jumpTo_pmem (s : State) (t : Word) : (s.jumpTo t).pmem = s.pmem := rfl
@[simp] theorem State.jumpTo_dmem (s : State) (t : Word) : (s.jumpTo t).dmem = s.dmem := rfl
@[simp] theorem State.jumpTo_dev (s : State) (t : Word) : (s.jumpTo t).dev = s.dev := rfl
@[simp] theorem State.jumpTo_inputs (s : State) (t : Word) : (s.jumpTo t).inputs = s.inputs := rfl
@[simp] theorem State.jumpTo_params (s : State) (t : Word) : (s.jumpTo t).params = s.params := rfl
@[simp] theorem State.jumpTo_freeCount (s : State) (t : Word) : (s.jumpTo t).freeCount = s.freeCount := rfl
@[simp] theorem State.jumpTo_reg (s : State) (t : Word) (q : Reg) : (s.jumpTo t).reg q = s.reg q := by cases q <;> rfl

/-! ### After `goTo` -/

@[simp] theorem State.goTo_regs (s : State) (b : Bool) (t : Word) : (s.goTo b t).regs = s.regs := by cases b <;> rfl
@[simp] theorem State.goTo_pc (s : State) (b : Bool) (t : Word) :
    (s.goTo b t).pc = if b then s.pc else fitPc s.params.pcWidth t := by cases b <;> rfl
@[simp] theorem State.goTo_ds (s : State) (b : Bool) (t : Word) :
    (s.goTo b t).ds = if b then some t else s.ds := by cases b <;> rfl
@[simp] theorem State.goTo_re (s : State) (b : Bool) (t : Word) : (s.goTo b t).re = s.re := by cases b <;> rfl
@[simp] theorem State.goTo_pcE (s : State) (b : Bool) (t : Word) : (s.goTo b t).pcE = s.pcE := by cases b <;> rfl
@[simp] theorem State.goTo_reE (s : State) (b : Bool) (t : Word) : (s.goTo b t).reE = s.reE := by cases b <;> rfl
@[simp] theorem State.goTo_im (s : State) (b : Bool) (t : Word) : (s.goTo b t).im = s.im := by cases b <;> rfl
@[simp] theorem State.goTo_ip (s : State) (b : Bool) (t : Word) : (s.goTo b t).ip = s.ip := by cases b <;> rfl
@[simp] theorem State.goTo_pmem (s : State) (b : Bool) (t : Word) : (s.goTo b t).pmem = s.pmem := by cases b <;> rfl
@[simp] theorem State.goTo_dmem (s : State) (b : Bool) (t : Word) : (s.goTo b t).dmem = s.dmem := by cases b <;> rfl
@[simp] theorem State.goTo_dev (s : State) (b : Bool) (t : Word) : (s.goTo b t).dev = s.dev := by cases b <;> rfl
@[simp] theorem State.goTo_inputs (s : State) (b : Bool) (t : Word) :
    (s.goTo b t).inputs = s.inputs := by cases b <;> rfl
@[simp] theorem State.goTo_params (s : State) (b : Bool) (t : Word) :
    (s.goTo b t).params = s.params := by cases b <;> rfl
@[simp] theorem State.goTo_freeCount (s : State) (b : Bool) (t : Word) :
    (s.goTo b t).freeCount = s.freeCount := by cases b <;> rfl
@[simp] theorem State.goTo_reg (s : State) (b : Bool) (t : Word) (q : Reg) : (s.goTo b t).reg q = s.reg q := by cases q <;> cases b <;> rfl

/-! ### After `saveContext` -/

@[simp] theorem State.saveContext_regs (s : State) (ret : Word) : (s.saveContext ret).regs = s.regs := rfl
@[simp] theorem State.saveContext_pc (s : State) (ret : Word) : (s.saveContext ret).pc = s.pc := rfl
@[simp] theorem State.saveContext_ds (s : State) (ret : Word) : (s.saveContext ret).ds = s.ds := rfl
@[simp] theorem State.saveContext_re (s : State) (ret : Word) : (s.saveContext ret).re = entryFlags s.freeCount := rfl
@[simp] theorem State.saveContext_pcE (s : State) (ret : Word) : (s.saveContext ret).pcE = ret := rfl
@[simp] theorem State.saveContext_reE (s : State) (ret : Word) : (s.saveContext ret).reE = s.re := rfl
@[simp] theorem State.saveContext_im (s : State) (ret : Word) : (s.saveContext ret).im = s.im := rfl
@[simp] theorem State.saveContext_ip (s : State) (ret : Word) : (s.saveContext ret).ip = s.ip := rfl
@[simp] theorem State.saveContext_pmem (s : State) (ret : Word) : (s.saveContext ret).pmem = s.pmem := rfl
@[simp] theorem State.saveContext_dmem (s : State) (ret : Word) : (s.saveContext ret).dmem = s.dmem := rfl
@[simp] theorem State.saveContext_dev (s : State) (ret : Word) : (s.saveContext ret).dev = s.dev := rfl
@[simp] theorem State.saveContext_inputs (s : State) (ret : Word) : (s.saveContext ret).inputs = s.inputs := rfl
@[simp] theorem State.saveContext_params (s : State) (ret : Word) : (s.saveContext ret).params = s.params := rfl
@[simp] theorem State.saveContext_freeCount (s : State) (ret : Word) :
    (s.saveContext ret).freeCount = s.freeCount + 1 := rfl
@[simp] theorem State.saveContext_reg (s : State) (ret : Word) (q : Reg) : (s.saveContext ret).reg q = s.reg q := by cases q <;> rfl

/-! ### After `setPending` -/

@[simp] theorem State.setPending_regs (s : State) (v : Nat) : (s.setPending v).regs = s.regs := rfl
@[simp] theorem State.setPending_pc (s : State) (v : Nat) : (s.setPending v).pc = s.pc := rfl
@[simp] theorem State.setPending_ds (s : State) (v : Nat) : (s.setPending v).ds = s.ds := rfl
@[simp] theorem State.setPending_re (s : State) (v : Nat) : (s.setPending v).re = s.re := rfl
@[simp] theorem State.setPending_pcE (s : State) (v : Nat) : (s.setPending v).pcE = s.pcE := rfl
@[simp] theorem State.setPending_reE (s : State) (v : Nat) : (s.setPending v).reE = s.reE := rfl
@[simp] theorem State.setPending_im (s : State) (v : Nat) : (s.setPending v).im = s.im := rfl
@[simp] theorem State.setPending_ip (s : State) (v : Nat) : (s.setPending v).ip = s.ip ||| (1#16 <<< v) := rfl
@[simp] theorem State.setPending_pmem (s : State) (v : Nat) : (s.setPending v).pmem = s.pmem := rfl
@[simp] theorem State.setPending_dmem (s : State) (v : Nat) : (s.setPending v).dmem = s.dmem := rfl
@[simp] theorem State.setPending_dev (s : State) (v : Nat) : (s.setPending v).dev = s.dev := rfl
@[simp] theorem State.setPending_inputs (s : State) (v : Nat) : (s.setPending v).inputs = s.inputs := rfl
@[simp] theorem State.setPending_params (s : State) (v : Nat) : (s.setPending v).params = s.params := rfl
@[simp] theorem State.setPending_freeCount (s : State) (v : Nat) : (s.setPending v).freeCount = s.freeCount := rfl
@[simp] theorem State.setPending_reg (s : State) (v : Nat) (q : Reg) : (s.setPending v).reg q = s.reg q := by cases q <;> rfl

/-! ### After `clearPending` -/

@[simp] theorem State.clearPending_regs (s : State) (v : Nat) : (s.clearPending v).regs = s.regs := rfl
@[simp] theorem State.clearPending_pc (s : State) (v : Nat) : (s.clearPending v).pc = s.pc := rfl
@[simp] theorem State.clearPending_ds (s : State) (v : Nat) : (s.clearPending v).ds = s.ds := rfl
@[simp] theorem State.clearPending_re (s : State) (v : Nat) : (s.clearPending v).re = s.re := rfl
@[simp] theorem State.clearPending_pcE (s : State) (v : Nat) : (s.clearPending v).pcE = s.pcE := rfl
@[simp] theorem State.clearPending_reE (s : State) (v : Nat) : (s.clearPending v).reE = s.reE := rfl
@[simp] theorem State.clearPending_im (s : State) (v : Nat) : (s.clearPending v).im = s.im := rfl
@[simp] theorem State.clearPending_ip (s : State) (v : Nat) : (s.clearPending v).ip = s.ip &&& ~~~(1#16 <<< v) := rfl
@[simp] theorem State.clearPending_pmem (s : State) (v : Nat) : (s.clearPending v).pmem = s.pmem := rfl
@[simp] theorem State.clearPending_dmem (s : State) (v : Nat) : (s.clearPending v).dmem = s.dmem := rfl
@[simp] theorem State.clearPending_dev (s : State) (v : Nat) : (s.clearPending v).dev = s.dev := rfl
@[simp] theorem State.clearPending_inputs (s : State) (v : Nat) : (s.clearPending v).inputs = s.inputs := rfl
@[simp] theorem State.clearPending_params (s : State) (v : Nat) : (s.clearPending v).params = s.params := rfl
@[simp] theorem State.clearPending_freeCount (s : State) (v : Nat) : (s.clearPending v).freeCount = s.freeCount := rfl
@[simp] theorem State.clearPending_reg (s : State) (v : Nat) (q : Reg) : (s.clearPending v).reg q = s.reg q := by cases q <;> rfl

/-! ### After `placeAtPc` -/

@[simp] theorem State.placeAtPc_regs (s : State) (w : Word) : (s.placeAtPc w).regs = s.regs := rfl
@[simp] theorem State.placeAtPc_pc (s : State) (w : Word) : (s.placeAtPc w).pc = s.pc := rfl
@[simp] theorem State.placeAtPc_ds (s : State) (w : Word) : (s.placeAtPc w).ds = s.ds := rfl
@[simp] theorem State.placeAtPc_re (s : State) (w : Word) : (s.placeAtPc w).re = s.re := rfl
@[simp] theorem State.placeAtPc_pcE (s : State) (w : Word) : (s.placeAtPc w).pcE = s.pcE := rfl
@[simp] theorem State.placeAtPc_reE (s : State) (w : Word) : (s.placeAtPc w).reE = s.reE := rfl
@[simp] theorem State.placeAtPc_im (s : State) (w : Word) : (s.placeAtPc w).im = s.im := rfl
@[simp] theorem State.placeAtPc_ip (s : State) (w : Word) : (s.placeAtPc w).ip = s.ip := rfl
@[simp] theorem State.placeAtPc_pmem (s : State) (w : Word) :
    (s.placeAtPc w).pmem = Memory.setWord s.pmem (position s.pc) w := rfl
@[simp] theorem State.placeAtPc_dmem (s : State) (w : Word) : (s.placeAtPc w).dmem = s.dmem := rfl
@[simp] theorem State.placeAtPc_dev (s : State) (w : Word) : (s.placeAtPc w).dev = s.dev := rfl
@[simp] theorem State.placeAtPc_inputs (s : State) (w : Word) : (s.placeAtPc w).inputs = s.inputs := rfl
@[simp] theorem State.placeAtPc_params (s : State) (w : Word) : (s.placeAtPc w).params = s.params := rfl
@[simp] theorem State.placeAtPc_freeCount (s : State) (w : Word) : (s.placeAtPc w).freeCount = s.freeCount := rfl
@[simp] theorem State.placeAtPc_reg (s : State) (w : Word) (q : Reg) : (s.placeAtPc w).reg q = s.reg q := by cases q <;> rfl

/-! ### After `setDev` -/

@[simp] theorem State.setDev_regs (s : State) (d : Devices) : (s.setDev d).regs = s.regs := rfl
@[simp] theorem State.setDev_pc (s : State) (d : Devices) : (s.setDev d).pc = s.pc := rfl
@[simp] theorem State.setDev_ds (s : State) (d : Devices) : (s.setDev d).ds = s.ds := rfl
@[simp] theorem State.setDev_re (s : State) (d : Devices) : (s.setDev d).re = s.re := rfl
@[simp] theorem State.setDev_pcE (s : State) (d : Devices) : (s.setDev d).pcE = s.pcE := rfl
@[simp] theorem State.setDev_reE (s : State) (d : Devices) : (s.setDev d).reE = s.reE := rfl
@[simp] theorem State.setDev_im (s : State) (d : Devices) : (s.setDev d).im = s.im := rfl
@[simp] theorem State.setDev_ip (s : State) (d : Devices) : (s.setDev d).ip = s.ip := rfl
@[simp] theorem State.setDev_pmem (s : State) (d : Devices) : (s.setDev d).pmem = s.pmem := rfl
@[simp] theorem State.setDev_dmem (s : State) (d : Devices) : (s.setDev d).dmem = s.dmem := rfl
@[simp] theorem State.setDev_dev (s : State) (d : Devices) : (s.setDev d).dev = d := rfl
@[simp] theorem State.setDev_inputs (s : State) (d : Devices) : (s.setDev d).inputs = s.inputs := rfl
@[simp] theorem State.setDev_params (s : State) (d : Devices) : (s.setDev d).params = s.params := rfl
@[simp] theorem State.setDev_freeCount (s : State) (d : Devices) : (s.setDev d).freeCount = s.freeCount := rfl
@[simp] theorem State.setDev_reg (s : State) (d : Devices) (q : Reg) : (s.setDev d).reg q = s.reg q := by cases q <;> rfl

/-! ### After `setMask` -/

@[simp] theorem State.setMask_regs (s : State) (v : Word) : (s.setMask v).regs = s.regs := rfl
@[simp] theorem State.setMask_pc (s : State) (v : Word) : (s.setMask v).pc = s.pc := rfl
@[simp] theorem State.setMask_ds (s : State) (v : Word) : (s.setMask v).ds = s.ds := rfl
@[simp] theorem State.setMask_re (s : State) (v : Word) : (s.setMask v).re = s.re := rfl
@[simp] theorem State.setMask_pcE (s : State) (v : Word) : (s.setMask v).pcE = s.pcE := rfl
@[simp] theorem State.setMask_reE (s : State) (v : Word) : (s.setMask v).reE = s.reE := rfl
@[simp] theorem State.setMask_im (s : State) (v : Word) : (s.setMask v).im = v := rfl
@[simp] theorem State.setMask_ip (s : State) (v : Word) : (s.setMask v).ip = s.ip := rfl
@[simp] theorem State.setMask_pmem (s : State) (v : Word) : (s.setMask v).pmem = s.pmem := rfl
@[simp] theorem State.setMask_dmem (s : State) (v : Word) : (s.setMask v).dmem = s.dmem := rfl
@[simp] theorem State.setMask_dev (s : State) (v : Word) : (s.setMask v).dev = s.dev := rfl
@[simp] theorem State.setMask_inputs (s : State) (v : Word) : (s.setMask v).inputs = s.inputs := rfl
@[simp] theorem State.setMask_params (s : State) (v : Word) : (s.setMask v).params = s.params := rfl
@[simp] theorem State.setMask_freeCount (s : State) (v : Word) : (s.setMask v).freeCount = s.freeCount := rfl
@[simp] theorem State.setMask_reg (s : State) (v : Word) (q : Reg) : (s.setMask v).reg q = s.reg q := by cases q <;> rfl

/-! ### After `bumpFree` -/

@[simp] theorem State.bumpFree_regs (s : State) : (s.bumpFree).regs = s.regs := rfl
@[simp] theorem State.bumpFree_pc (s : State) : (s.bumpFree).pc = s.pc := rfl
@[simp] theorem State.bumpFree_ds (s : State) : (s.bumpFree).ds = s.ds := rfl
@[simp] theorem State.bumpFree_re (s : State) : (s.bumpFree).re = s.re := rfl
@[simp] theorem State.bumpFree_pcE (s : State) : (s.bumpFree).pcE = s.pcE := rfl
@[simp] theorem State.bumpFree_reE (s : State) : (s.bumpFree).reE = s.reE := rfl
@[simp] theorem State.bumpFree_im (s : State) : (s.bumpFree).im = s.im := rfl
@[simp] theorem State.bumpFree_ip (s : State) : (s.bumpFree).ip = s.ip := rfl
@[simp] theorem State.bumpFree_pmem (s : State) : (s.bumpFree).pmem = s.pmem := rfl
@[simp] theorem State.bumpFree_dmem (s : State) : (s.bumpFree).dmem = s.dmem := rfl
@[simp] theorem State.bumpFree_dev (s : State) : (s.bumpFree).dev = s.dev := rfl
@[simp] theorem State.bumpFree_inputs (s : State) : (s.bumpFree).inputs = s.inputs := rfl
@[simp] theorem State.bumpFree_params (s : State) : (s.bumpFree).params = s.params := rfl
@[simp] theorem State.bumpFree_freeCount (s : State) : (s.bumpFree).freeCount = s.freeCount + 1 := rfl
@[simp] theorem State.bumpFree_reg (s : State) (q : Reg) : (s.bumpFree).reg q = s.reg q := by cases q <;> rfl

/-! ### After `setDmem` -/

@[simp] theorem State.setDmem_regs (s : State) (m : List Host.Cell) : (s.setDmem m).regs = s.regs := rfl
@[simp] theorem State.setDmem_pc (s : State) (m : List Host.Cell) : (s.setDmem m).pc = s.pc := rfl
@[simp] theorem State.setDmem_ds (s : State) (m : List Host.Cell) : (s.setDmem m).ds = s.ds := rfl
@[simp] theorem State.setDmem_re (s : State) (m : List Host.Cell) : (s.setDmem m).re = s.re := rfl
@[simp] theorem State.setDmem_pcE (s : State) (m : List Host.Cell) : (s.setDmem m).pcE = s.pcE := rfl
@[simp] theorem State.setDmem_reE (s : State) (m : List Host.Cell) : (s.setDmem m).reE = s.reE := rfl
@[simp] theorem State.setDmem_im (s : State) (m : List Host.Cell) : (s.setDmem m).im = s.im := rfl
@[simp] theorem State.setDmem_ip (s : State) (m : List Host.Cell) : (s.setDmem m).ip = s.ip := rfl
@[simp] theorem State.setDmem_pmem (s : State) (m : List Host.Cell) : (s.setDmem m).pmem = s.pmem := rfl
@[simp] theorem State.setDmem_dmem (s : State) (m : List Host.Cell) : (s.setDmem m).dmem = m := rfl
@[simp] theorem State.setDmem_dev (s : State) (m : List Host.Cell) : (s.setDmem m).dev = s.dev := rfl
@[simp] theorem State.setDmem_inputs (s : State) (m : List Host.Cell) : (s.setDmem m).inputs = s.inputs := rfl
@[simp] theorem State.setDmem_params (s : State) (m : List Host.Cell) : (s.setDmem m).params = s.params := rfl
@[simp] theorem State.setDmem_freeCount (s : State) (m : List Host.Cell) :
    (s.setDmem m).freeCount = s.freeCount := rfl
@[simp] theorem State.setDmem_reg (s : State) (m : List Host.Cell) (q : Reg) : (s.setDmem m).reg q = s.reg q := by cases q <;> rfl

/-! ### The flag writes of the families, as writes of RE -/

@[simp] theorem State.setArith_eq (s : State) (r : Word) (c o : Bool) :
    s.setArith r c o = s.setRe { s.re with z := isZero r, n := isNeg r, c := c, o := o } := rfl
@[simp] theorem State.setLogic_eq (s : State) (r : Word) :
    s.setLogic r = s.setRe { s.re with z := isZero r, n := isNeg r } := rfl
@[simp] theorem State.setShift_eq (s : State) (r : Word) (b : Bool) :
    s.setShift r b = s.setRe { s.re with z := isZero r, n := isNeg r, c := b } := rfl
@[simp] theorem State.setShiftArith_eq (s : State) (v r : Word) (b : Bool) :
    s.setShiftArith v r b = s.setRe { s.re with z := isZero r, n := isNeg r, c := b, o := v.msb ^^ r.msb } := rfl

/-! ### Results with their flags, as a register write and a write of RE -/

@[simp] theorem State.putSum_eq (s : State) (d : Reg) (q : Sum) :
    s.putSum d q = (s.setReg d q.r).setArith q.r q.c q.o := rfl
@[simp] theorem State.putDiff_eq (s : State) (d : Reg) (q : Sum) :
    s.putDiff d q = (s.setReg d q.r).setArith q.r (s.subCarry q.c) q.o := rfl
@[simp] theorem State.putLogic_eq (s : State) (d : Reg) (r : Word) :
    s.putLogic d r = (s.setReg d r).setLogic r := rfl
@[simp] theorem State.putShift_eq (s : State) (d : Reg) (r : Word) (b : Bool) :
    s.putShift d r b = (s.setReg d r).setShift r b := rfl
@[simp] theorem State.putShiftArith_eq (s : State) (d : Reg) (v r : Word) (b : Bool) :
    s.putShiftArith d v r b = (s.setReg d r).setShiftArith v r b := rfl
@[simp] theorem State.takeInterrupt_eq (s : State) (v : Nat) :
    s.takeInterrupt v = (s.clearPending v).enter s.pc false (handlerAddress v) := rfl
@[simp] theorem State.enter_eq (s : State) (ret : Word) (b : Bool) (t : Word) :
    s.enter ret b t = (s.saveContext ret).goTo b t := rfl
@[simp] theorem State.leave_eq (s : State) : s.leave = (s.setRe s.reE).goTo (s.hasSlot .rti) s.pcE := rfl

/-! ### A change of control does not depend on registers and status bits -/

theorem State.goTo_setRe (s : State) (f : Flags) (b : Bool) (t : Word) :
    (s.setRe f).goTo b t = (s.goTo b t).setRe f := by cases b <;> rfl
theorem State.goTo_setReg (s : State) (r : Reg) (v : Word) (b : Bool) (t : Word) :
    (s.setReg r v).goTo b t = (s.goTo b t).setReg r v := by cases b <;> rfl
@[simp] theorem State.hasSlot_setRe (s : State) (f : Flags) (k : Config.ControlKind) :
    (s.setRe f).hasSlot k = s.hasSlot k := rfl
@[simp] theorem State.hasSlot_setReg (s : State) (r : Reg) (v : Word) (k : Config.ControlKind) :
    (s.setReg r v).hasSlot k = s.hasSlot k := rfl
@[simp] theorem State.hasSlot_advance (s : State) (k : Config.ControlKind) : s.advance.hasSlot k = s.hasSlot k := rfl

/-! ### Reading a register -/

@[simp] theorem State.reg_r0 (s : State) : s.reg .r0 = 0 := rfl

/-- A register after a register write: R0 is never changed (10_state.md R21). -/
theorem State.reg_setReg (s : State) (d q : Reg) (v : Word) :
    (s.setReg d v).reg q = if q = d ∧ d ≠ .r0 then v else s.reg q := by
  cases d <;> cases q <;> rfl

@[simp] theorem State.reg_setReg_same (s : State) (d : Reg) (v : Word) (h : d ≠ .r0) :
    (s.setReg d v).reg d = v := by simp [State.reg_setReg, h]

@[simp] theorem State.reg_setReg_other (s : State) (d q : Reg) (v : Word) (h : q ≠ d) :
    (s.setReg d v).reg q = s.reg q := by simp [State.reg_setReg, h]

@[simp] theorem State.setReg_r0 (s : State) (v : Word) : s.setReg .r0 v = s := rfl

/-- Registers are read from the register file alone. -/
theorem State.reg_congr {s t : State} (h : s.regs = t.regs) (q : Reg) : s.reg q = t.reg q := by
  cases q <;> simp [State.reg, h]

/-- SUB_CARRY is a parameter of the machine: no register or flag changes it. -/
theorem State.subCarry_congr {s t : State} (h : s.params = t.params) (c : Bool) : s.subCarry c = t.subCarry c := by
  simp [State.subCarry, h]

end Sys2Proof.Machine
end

