-- ==== Sys2Proof/Laws/Memory.lean ====
section
/-! SUPPORT. The memory: a read after a write, and the canonical form kept by every operation. -/

namespace Sys2Proof.Machine

/-! ### Sparse memory -/

theorem sparseRead_write_same {α : Type} (m : List (Nat × α)) (a : Nat) (v : α) :
    sparseRead (sparseWrite m a v) a = some v := by
  induction m with
  | nil => simp [sparseWrite, sparseRead]
  | cons x m ih =>
    obtain ⟨k, y⟩ := x
    simp only [sparseWrite]
    split
    · simp [sparseRead]
    · split
      · simp [sparseRead]
      · rename_i h1 h2
        simp [sparseRead, ih, Ne.symm h2]

theorem sparseRead_write_other {α : Type} (m : List (Nat × α)) {a b : Nat} (v : α) (h : b ≠ a) :
    sparseRead (sparseWrite m a v) b = sparseRead m b := by
  induction m with
  | nil => simp [sparseWrite, sparseRead, h.symm]
  | cons x m ih =>
    obtain ⟨k, y⟩ := x
    simp only [sparseWrite]
    split
    · simp [sparseRead, h.symm]
    · split
      · rename_i h2
        subst h2
        simp [sparseRead, h.symm]
      · simp [sparseRead, ih]

theorem sparseRead_write {α : Type} (m : List (Nat × α)) (a b : Nat) (v : α) :
    sparseRead (sparseWrite m a v) b = if b = a then some v else sparseRead m b := by
  split
  · rename_i h; subst h; exact sparseRead_write_same m b v
  · rename_i h; exact sparseRead_write_other m v h

/-- The keys after a write: the old ones and the key written. -/
theorem mem_keys_sparseWrite {α : Type} (m : List (Nat × α)) (a : Nat) (v : α) (k : Nat) :
    k ∈ (sparseWrite m a v).map Prod.fst ↔ k = a ∨ k ∈ m.map Prod.fst := by
  induction m with
  | nil => simp [sparseWrite]
  | cons x m ih =>
    obtain ⟨j, y⟩ := x
    simp only [sparseWrite]
    split
    · simp
    · split
      · rename_i h; subst h; simp
      · simp only [List.map_cons, List.mem_cons, ih]
        tauto

theorem sparseWrite_wf {α : Type} {bound : Nat} {m : List (Nat × α)} {a : Nat} (v : α) (ha : a < bound)
    (h : sparseWf bound m) : sparseWf bound (sparseWrite m a v) := by
  constructor
  · obtain ⟨hs, -⟩ := h
    induction m with
    | nil => simp [sparseWrite]
    | cons x m ih =>
      obtain ⟨k, y⟩ := x
      simp only [List.map_cons, List.pairwise_cons] at hs
      simp only [sparseWrite]
      split
      · rename_i hk
        simp only [List.map_cons, List.pairwise_cons, List.mem_cons]
        refine ⟨?_, hs⟩
        rintro j (rfl | hj)
        · exact hk
        · exact hk.trans (hs.1 j hj)
      · split
        · rename_i h2
          subst h2
          simpa using hs
        · simp only [List.map_cons, List.pairwise_cons]
          refine ⟨?_, ih hs.2⟩
          intro j hj
          rcases (mem_keys_sparseWrite m a v j).1 hj with rfl | hj
          · omega
          · exact hs.1 j hj
  · intro k hk
    rcases (mem_keys_sparseWrite m a v k).1 hk with rfl | hk
    · exact ha
    · exact h.2 k hk

/-! ### Words in octet cells -/

theorem position_lt (addr : Word) : position addr < 32768 := (addr.setWidth 15).isLt

theorem Memory.octet_setWord (m : List Host.Cell) (n a : Nat) (v : Word) :
    Memory.octet (Memory.setWord m n v) a =
      if a = 2 * n then v.extractLsb' 0 8 else if a = 2 * n + 1 then v.extractLsb' 8 8 else Memory.octet m a := by
  simp only [Memory.octet, Memory.setWord, sparseRead_write]
  split
  · rename_i h; subst h; simp
  · split <;> rfl

theorem octets_append (v : Word) : v.extractLsb' 8 8 ++ v.extractLsb' 0 8 = v := by
  ext i hi
  rw [BitVec.getElem_append]
  interval_cases i <;> simp

theorem Memory.word_setWord (m : List Host.Cell) (n k : Nat) (v : Word) :
    Memory.word (Memory.setWord m n v) k = if k = n then v else Memory.word m k := by
  simp only [Memory.word, Memory.octet_setWord]
  by_cases h : k = n
  · subst h
    have h1 : 2 * k + 1 ≠ 2 * k := by omega
    simp only [h1, if_false, if_true, octets_append]
  · have h1 : 2 * k + 1 ≠ 2 * n := by omega
    have h2 : 2 * k + 1 ≠ 2 * n + 1 := by omega
    have h3 : 2 * k ≠ 2 * n := by omega
    have h4 : 2 * k ≠ 2 * n + 1 := by omega
    simp only [h1, h2, h3, h4, h, if_false]

theorem Memory.loadedWord_setWord (m : List Host.Cell) (n k : Nat) (v : Word) :
    Memory.loadedWord (Memory.setWord m n v) k = if k = n then some v else Memory.loadedWord m k := by
  simp only [Memory.loadedWord, Memory.setWord, sparseRead_write]
  by_cases h : k = n
  · subst h
    have h1 : 2 * k ≠ 2 * k + 1 := by omega
    simp only [h1, if_false, if_true, octets_append]
  · have h1 : 2 * k + 1 ≠ 2 * n := by omega
    have h2 : 2 * k + 1 ≠ 2 * n + 1 := by omega
    have h3 : 2 * k ≠ 2 * n := by omega
    have h4 : 2 * k ≠ 2 * n + 1 := by omega
    simp only [h1, h2, h3, h4, h, if_false]

/-! ### The canonical form -/

theorem Memory.nil_wf : Memory.wf [] := ⟨List.Pairwise.nil, fun _ h => absurd h List.not_mem_nil⟩

theorem Memory.setWord_wf {m : List Host.Cell} {n : Nat} (v : Word) (hn : n < 32768) (h : Memory.wf m) :
    Memory.wf (Memory.setWord m n v) :=
  sparseWrite_wf _ (by omega) (sparseWrite_wf _ (by omega) h)

theorem Memory.load_wf {m : List Host.Cell} (image : Image) (h : Memory.wf m) : Memory.wf (Memory.load m image) := by
  induction image generalizing m with
  | nil => exact h
  | cons x image ih => exact ih (Memory.setWord_wf x.2 (position_lt x.1) h)

theorem State.placeAtPc_wf {s : State} (w : Word) (h : Memory.wf s.pmem) : Memory.wf (s.placeAtPc w).pmem :=
  Memory.setWord_wf w (position_lt s.pc) h

theorem State.withFetchWord_wf {s : State} (nbits w : Nat) (h : Memory.wf s.pmem) :
    Memory.wf (s.withFetchWord nbits w).pmem := State.placeAtPc_wf _ h

end Sys2Proof.Machine
end

