-- ==== Sys2Proof/Laws/Ops.lean ====
section
/-! SUPPORT. For each shared operation, one lemma that says everything it can do. -/

namespace Sys2Proof.Machine

/-! ### The adder -/

theorem addCore_r (a b : Word) (cin : Bool) : (addCore a b cin).r = a + b + BitVec.ofNat 16 cin.toNat := by
  apply BitVec.eq_of_toNat_eq
  simp [addCore]

theorem addCore_c (a b : Word) (cin : Bool) : (addCore a b cin).c = true ↔ 65536 ≤ a.toNat + b.toNat + cin.toNat := by
  have ha := a.isLt
  have hb := b.isLt
  have hc : cin.toNat ≤ 1 := Bool.toNat_le cin
  simp only [addCore, decide_eq_true_eq]
  omega

theorem addCore_o (a b : Word) (cin : Bool) :
    (addCore a b cin).o = true ↔
      a.toInt + b.toInt + (cin.toNat : Int) < -32768 ∨ 32767 < a.toInt + b.toInt + (cin.toNat : Int) := by
  simp only [addCore, decide_eq_true_eq]

/-! ### Bits of a shifted word -/

theorem shiftInLeft_getLsbD (b : Bool) (v : Word) (i : Nat) :
    (shiftInLeft b v).getLsbD i = if i = 15 then b else if i < 15 then v.getLsbD (i + 1) else false := by
  unfold shiftInLeft
  rw [BitVec.getLsbD_append]
  by_cases h : i < 15
  · simp [h, show i ≠ 15 by omega, Nat.add_comm]
  · by_cases h' : i = 15
    · subst h'; simp
    · simp [h, h', show i - 15 ≠ 0 by omega]

theorem shiftInRight_getLsbD (v : Word) (b : Bool) (i : Nat) :
    (shiftInRight v b).getLsbD i = if i = 0 then b else if i < 16 then v.getLsbD (i - 1) else false := by
  unfold shiftInRight
  rw [BitVec.getLsbD_append]
  by_cases h : i = 0
  · subst h; simp
  · by_cases h' : i < 16
    · simp [h, h', show ¬i < 1 by omega, show i - 1 < 15 by omega]
    · simp [h, h', show ¬i < 1 by omega, show ¬(i - 1 < 15) by omega]

/-! ### Registers in an encoding -/

theorem Reg.ofBits_bits (r : Reg) : Reg.ofBits r.bits = r := by cases r <;> rfl

theorem Reg.bits_ofBits (b : BitVec 3) : (Reg.ofBits b).bits = b := by
  revert b; decide

/-! ### Control instructions -/

theorem State.control_next {s t : State} {k : State → State} (h : s.control k = .next t) :
    s.ds = none ∧ t = k s.advance := by
  unfold State.control at h
  split at h
  · cases h
  · rename_i hn
    refine ⟨by simpa using hn, ?_⟩
    injection h with h
    exact h.symm

theorem State.control_of_none {s : State} (k : State → State) (h : s.ds = none) :
    s.control k = .next (k s.advance) := by simp [State.control, h]

theorem State.control_of_some {s : State} (k : State → State) (h : s.ds ≠ none) :
    s.control k = .refused .controlInDelaySlot := by
  cases hd : s.ds with
  | none => exact absurd hd h
  | some a => simp [State.control, hd]

/-- What a conditional jump that completes did: it was in no slot, and went to its target or just advanced. -/
theorem State.branchIf_next {s t : State} {k : Cond} {d : BitVec 8} (h : s.branchIf k d = .next t) :
    s.ds = none ∧ (t = s.advance.goTo (s.hasSlot .brCond) (s.relTarget d) ∨ t = s.advance) := by
  obtain ⟨hd, rfl⟩ := State.control_next h
  exact ⟨hd, by split <;> simp⟩

theorem State.jumpIf_next {s t : State} {k : Cond} {r : Reg} (h : s.jumpIf k r = .next t) :
    s.ds = none ∧ (t = s.advance.goTo (s.hasSlot .jmpCond) (s.reg r) ∨ t = s.advance) := by
  obtain ⟨hd, rfl⟩ := State.control_next h
  exact ⟨hd, by split <;> simp⟩

theorem State.callIf_next {s t : State} {k : Cond} {r : Reg} (h : s.callIf k r = .next t) :
    s.ds = none ∧
      (t = (s.advance.setReg .r7 s.link).goTo (s.hasSlot .jalCond) (s.reg r) ∨ t = s.advance) := by
  obtain ⟨hd, rfl⟩ := State.control_next h
  exact ⟨hd, by split <;> simp⟩

theorem State.advance_pc_of_none {s : State} (h : s.ds = none) :
    s.advance.pc = fitPc s.params.pcWidth (s.pc + 1) := by simp [h]

/-! ### The width of the program counter -/

@[simp] theorem fitPc_bits16 (a : Word) : fitPc .bits16 a = a := rfl

theorem fitPc_toNat (width : Config.PcWidth) (a : Word) :
    (fitPc width a).toNat = match width with | .bits15 => a.toNat % 32768 | .bits16 => a.toNat := by
  cases width with
  | bits15 => simpa [fitPc] using Nat.and_two_pow_sub_one_eq_mod a.toNat 15
  | bits16 => rfl

@[simp] theorem fitPc_fitPc (width : Config.PcWidth) (a : Word) : fitPc width (fitPc width a) = fitPc width a := by
  cases width <;> simp [fitPc, BitVec.and_assoc]

/-- The fetch sees 15 bits of pc, whatever its width. -/
@[simp] theorem position_fitPc (width : Config.PcWidth) (a : Word) : position (fitPc width a) = position a := by
  simp only [position, BitVec.toNat_setWidth, fitPc_toNat]
  cases width <;> simp

/-! ### The encoding -/

@[simp] theorem decodeBy_pe1 (w : Word) : decodeBy .pe1 w = decodeWord w := rfl

/-- A word that a table lists once stands for the instruction of its row. -/
theorem decodeBy_table {rows : List (Word × Instr)} {w : Word} {i : Instr} (hn : (rows.map Prod.fst).Nodup)
    (h : (w, i) ∈ rows) : decodeBy (.table rows) w = .ok i := by
  have : rows.lookup w = some i := by
    induction rows with
    | nil => cases h
    | cons x rows ih =>
      simp only [List.map_cons, List.nodup_cons] at hn
      rcases List.mem_cons.1 h with rfl | hr
      · simp
      · have hx : w ≠ x.1 := fun e => hn.1 (e ▸ List.mem_map_of_mem (f := Prod.fst) hr)
        obtain ⟨a, j⟩ := x
        rw [List.lookup_cons, beq_false_of_ne hx]
        exact ih hn.2 hr
  simp [decodeBy, this]

/-! ### Interrupt requests -/

theorem State.raise_cases (s : State) (v : Nat) : s.raise v = s.setPending v ∨ s.raise v = s := by
  unfold State.raise
  split
  · exact .inl rfl
  · split
    · exact .inl rfl
    · exact .inr rfl

theorem State.mem_candidates {s : State} {v : Nat} : v ∈ s.candidates ↔ v < 16 ∧ s.takeable v = true := by
  simp [State.candidates]

/-- Which request `accepted` can name: one of the candidates, with no delayed target pending. -/
theorem State.accepted_some {s : State} {v : Nat} (h : s.accepted = some v) : s.ds = none ∧ v ∈ s.candidates := by
  unfold State.accepted at h
  split at h
  · cases h
  · rename_i hd
    refine ⟨by simpa using hd, ?_⟩
    split at h
    · cases h
    · rename_i w hw
      cases h
      simp [hw]
    · rename_i a b l hl
      rw [hl]
      exact List.mem_of_getElem? h

/-- Where `accepted` names none: a delayed target is pending, or there is no candidate. -/
theorem State.accepted_none {s : State} (h : s.accepted = none) : s.ds ≠ none ∨ s.candidates = [] := by
  unfold State.accepted at h
  split at h
  · rename_i hd
    left
    intro h0
    simp [h0] at hd
  · split at h
    · rename_i hc
      exact .inr hc
    · cases h
    · rename_i a b l hl
      rw [List.getElem?_eq_none_iff] at h
      have := Nat.mod_lt (Config.irqChoice s.freeCount) (show 0 < l.length + 2 by omega)
      simp only [List.length_cons] at h
      omega

/-! ### Accesses -/

/-- What a read of the data space does to the state: nothing, or the read of the last key, or the taking of a
free value. -/
theorem State.memRead_cases (s : State) (a : Word) :
    (s.memRead a).2 = s ∨
    (s.memRead a).2 = s.setDev { s.dev with term := { s.dev.term with keyFlag := false } } ∨
    (s.memRead a).2 = s.bumpFree := by
  unfold State.memRead
  split
  · unfold State.portRead
    split <;> simp
  · exact .inl rfl

/-- What a write of the data space does to the state: it writes a word of memory, or the mask, or a device. -/
theorem State.memWrite_cases (s : State) (a v : Word) :
    (inWindow a = false ∧ s.memWrite a v = s.setDmem (Memory.setWord s.dmem (position a) v)) ∨
    (inWindow a = true ∧ portAt a = .mask ∧ s.memWrite a v = s.setMask v) ∨
    (inWindow a = true ∧ portAt a ≠ .mask ∧ s.memWrite a v = s.setDev (s.dev.write (portAt a) v)) := by
  unfold State.memWrite
  cases hw : inWindow a
  · simp
  · simp only [State.portWrite, if_true]
    cases hp : portAt a <;> simp

/-! ### Host events and the step -/

theorem State.deliver_nil {s : State} (h : s.inputs = []) : s.deliver = s := by simp [State.deliver, h]

/-- No host event changes program memory. -/
theorem State.applyEvent_pmem (s : State) (e : HostEvent) : (s.applyEvent e).pmem = s.pmem := by
  cases e with
  | button b => rcases s.raise_cases b.vector with h | h <;> simp [State.applyEvent, h]
  | key k =>
    simp only [State.applyEvent]
    rcases State.raise_cases (s.setDev _) keyboardVector with h | h <;> rw [h] <;> simp
  | switch i up => rfl
  | accel x y z => rfl
  | tick =>
    simp only [State.applyEvent, State.timerTick]
    split
    · rcases State.raise_cases (s.setDev _) timerVector with h | h <;> rw [h] <;> simp
    · simp
  | reset => rfl

/-- No host event changes the parameters of the machine. -/
theorem State.applyEvent_params (s : State) (e : HostEvent) : (s.applyEvent e).params = s.params := by
  cases e with
  | button b => rcases s.raise_cases b.vector with h | h <;> simp [State.applyEvent, h]
  | key k =>
    simp only [State.applyEvent]
    rcases State.raise_cases (s.setDev _) keyboardVector with h | h <;> rw [h] <;> simp
  | switch i up => rfl
  | accel x y z => rfl
  | tick =>
    simp only [State.applyEvent, State.timerTick]
    split
    · rcases State.raise_cases (s.setDev _) timerVector with h | h <;> rw [h] <;> simp
    · simp
  | reset => rfl

/-- A host event neither reads nor changes the rest of the event stream. -/
theorem State.applyEvent_withInputs (s : State) (e : HostEvent) (rest : List (List HostEvent)) :
    State.applyEvent { s with inputs := rest } e = { s.applyEvent e with inputs := rest } := by
  have raise (u : State) (v : Nat) : State.raise { u with inputs := rest } v = { u.raise v with inputs := rest } := by
    unfold State.raise
    cases u.params.irqPolicy
    · rfl
    · show (if u.enabled v then _ else _) = _
      cases u.enabled v <;> rfl
  cases e with
  | button b => exact raise s b.vector
  | key k => exact raise (s.setDev _) keyboardVector
  | switch i up => rfl
  | accel x y z => rfl
  | tick =>
    simp only [State.applyEvent, State.timerTick]
    split
    · exact raise (s.setDev _) timerVector
    · rfl
  | reset => rfl

theorem State.deliver_induction {P : State → Prop} {s : State} (h0 : ∀ later, P { s with inputs := later })
    (hs : P s) (he : ∀ u e, P u → P (u.applyEvent e)) : P s.deliver := by
  have fold : ∀ (events : List HostEvent) (u : State), P u → P (events.foldl State.applyEvent u) := by
    intro events
    induction events with
    | nil => exact fun u h => h
    | cons e es ih => exact fun u h => ih (u.applyEvent e) (he u e h)
  unfold State.deliver
  split
  · exact hs
  · exact fold _ _ (h0 _)

theorem State.deliver_pmem (s : State) : s.deliver.pmem = s.pmem :=
  State.deliver_induction (P := fun u => u.pmem = s.pmem) (fun _ => rfl) rfl
    fun u e h => (u.applyEvent_pmem e).trans h

theorem State.deliver_params (s : State) : s.deliver.params = s.params :=
  State.deliver_induction (P := fun u => u.params = s.params) (fun _ => rfl) rfl
    fun u e h => (u.applyEvent_params e).trans h

/-- What a step that answers a next state did: it took an interrupt, or ran the instruction decoded. -/
theorem step_next {s t : State} (h : step s = .next t) :
    (∃ v, s.deliver.accepted = some v ∧ t = s.deliver.takeInterrupt v) ∨
    (s.deliver.accepted = none ∧ ∃ w i, s.deliver.fetchWord = some w ∧
      decodeBy s.params.encoding w = .ok i ∧ exec i s.deliver = .next t) := by
  unfold step State.cycle at h
  split at h
  · rename_i v hv
    injection h with h
    exact .inl ⟨v, hv, h.symm⟩
  · rename_i hn
    refine .inr ⟨hn, ?_⟩
    unfold State.runInstruction at h
    split at h
    · cases h
    · rename_i w hw
      split at h
      · cases h
      · rename_i i hi
        exact ⟨w, i, hw, by rw [← s.deliver_params]; exact hi, h⟩

/-! ### The simulator at a boundary -/

@[simp] theorem Sim.applyEvent_machine (m : Sim) (e : HostEvent) :
    (m.applyEvent e).machine = m.machine.applyEvent e := by cases e <;> rfl

/-- A host event changes neither whether the simulator runs nor its breakpoints. -/
theorem Sim.applyEvent_controls (m : Sim) (e : HostEvent) :
    (m.applyEvent e).running = m.running ∧ (m.applyEvent e).breakpoints = m.breakpoints ∧
      (m.applyEvent e).steps = m.steps := by
  cases e <;> exact ⟨rfl, rfl, rfl⟩

/-- What a control that performs a step does: the machine's step, or its stop. -/
theorem Sim.advance_next {m n : Sim} (h : m.advance = .next n) : ∃ t, step m.machine = .next t ∧ n = m.after t := by
  unfold Sim.advance at h
  split at h
  · rename_i s hs
    injection h with h
    exact ⟨s, hs, h.symm⟩
  · cases h
  · cases h

end Sys2Proof.Machine
end

