-- ==== Sys2Proof/Laws/Encoding.lean ====
section
/-! SUPPORT. The fields of an encoded word, and a word put together again from its fields, format by format. -/

namespace Sys2Proof

theorem regField_eq {w : Word} {lo : Nat} {r : Reg} (h : field w lo 3 = r.bits) : regField w lo = r := by
  unfold regField
  rw [h, Machine.Reg.ofBits_bits]

theorem regField_bits (w : Word) (lo : Nat) : (regField w lo).bits = field w lo 3 := Machine.Reg.bits_ofBits _

theorem encodeZ_fields (f : BitVec 4) :
    field (encodeZ f) 12 4 = 0 ∧ field (encodeZ f) 4 8 = 0 ∧ field (encodeZ f) 0 4 = f := by
  refine ⟨?_, ?_, ?_⟩ <;> (ext i hi; interval_cases i <;> simp [field, encodeZ, putField])

theorem encodeK_fields (k : BitVec 8) :
    field (encodeK k) 12 4 = 1 ∧ field (encodeK k) 8 4 = 0 ∧ field (encodeK k) 0 8 = k := by
  refine ⟨?_, ?_, ?_⟩ <;> (ext i hi; interval_cases i <;> simp [field, encodeK, putField])

theorem encodeR3_fields (d s t : Reg) (f : BitVec 3) :
    field (encodeR3 d s t f) 12 4 = 2 ∧ field (encodeR3 d s t f) 9 3 = d.bits ∧
    field (encodeR3 d s t f) 6 3 = s.bits ∧ field (encodeR3 d s t f) 3 3 = t.bits ∧
    field (encodeR3 d s t f) 0 3 = f := by
  unfold encodeR3
  generalize d.bits = x, s.bits = y, t.bits = z
  refine ⟨?_, ?_, ?_, ?_, ?_⟩ <;> (ext i hi; interval_cases i <;> simp [field, putField])

theorem encodeR2_fields (s t : Reg) (f : BitVec 3) :
    field (encodeR2 s t f) 12 4 = 3 ∧ field (encodeR2 s t f) 9 3 = 0 ∧ field (encodeR2 s t f) 6 3 = s.bits ∧
    field (encodeR2 s t f) 3 3 = t.bits ∧ field (encodeR2 s t f) 0 3 = f := by
  unfold encodeR2
  generalize s.bits = y, t.bits = z
  refine ⟨?_, ?_, ?_, ?_, ?_⟩ <;> (ext i hi; interval_cases i <;> simp [field, putField])

theorem encodeR1_fields (r : Reg) (f : BitVec 4) :
    field (encodeR1 r f) 12 4 = 4 ∧ field (encodeR1 r f) 9 3 = r.bits ∧ field (encodeR1 r f) 4 5 = 0 ∧
    field (encodeR1 r f) 0 4 = f := by
  unfold encodeR1
  generalize r.bits = x
  refine ⟨?_, ?_, ?_, ?_⟩ <;> (ext i hi; interval_cases i <;> simp [field, putField])

theorem encodeT_fields (x y : Reg) (f : BitVec 2) :
    field (encodeT x y f) 12 4 = 5 ∧ field (encodeT x y f) 9 3 = x.bits ∧ field (encodeT x y f) 6 3 = y.bits ∧
    field (encodeT x y f) 2 4 = 0 ∧ field (encodeT x y f) 0 2 = f := by
  unfold encodeT
  generalize x.bits = a, y.bits = b
  refine ⟨?_, ?_, ?_, ?_, ?_⟩ <;> (ext i hi; interval_cases i <;> simp [field, putField])

theorem encodeI9_fields (r : Reg) (c : BitVec 9) :
    field (encodeI9 r c) 12 4 = 6 ∧ field (encodeI9 r c) 9 3 = r.bits ∧ field (encodeI9 r c) 0 9 = c := by
  unfold encodeI9
  generalize r.bits = x
  refine ⟨?_, ?_, ?_⟩ <;> (ext i hi; interval_cases i <;> simp [field, putField])

theorem encodeI8_fields (major : BitVec 4) (r : Reg) (b : BitVec 8) :
    field (encodeI8 major r b) 12 4 = major ∧ field (encodeI8 major r b) 9 3 = r.bits ∧
    field (encodeI8 major r b) 8 1 = 0 ∧ field (encodeI8 major r b) 0 8 = b := by
  unfold encodeI8
  generalize r.bits = x
  refine ⟨?_, ?_, ?_, ?_⟩ <;> (ext i hi; interval_cases i <;> simp [field, putField])

theorem encodeB_fields (c : BitVec 4) (d : BitVec 8) :
    field (encodeB c d) 12 4 = 9 ∧ field (encodeB c d) 8 4 = c ∧ field (encodeB c d) 0 8 = d := by
  refine ⟨?_, ?_, ?_⟩ <;> (ext i hi; interval_cases i <;> simp [field, encodeB, putField])

theorem encodeJ_fields (major c : BitVec 4) (r : Reg) :
    field (encodeJ major c r) 12 4 = major ∧ field (encodeJ major c r) 8 4 = c ∧
    field (encodeJ major c r) 3 5 = 0 ∧ field (encodeJ major c r) 0 3 = r.bits := by
  unfold encodeJ
  generalize r.bits = x
  refine ⟨?_, ?_, ?_, ?_⟩ <;> (ext i hi; interval_cases i <;> simp [field, putField])

theorem word_of_fields_3333 (w : Word) :
    putField (field w 12 4) 12 ||| putField (field w 9 3) 9 ||| putField (field w 6 3) 6 |||
      putField (field w 3 3) 3 ||| putField (field w 0 3) 0 = w := by
  ext i hi; interval_cases i <;> simp [field, putField]

theorem word_of_fields_4_8 (w : Word) :
    putField (field w 12 4) 12 ||| putField (field w 8 4) 8 ||| putField (field w 0 8) 0 = w := by
  ext i hi; interval_cases i <;> simp [field, putField]

theorem word_of_fields_8_4 (w : Word) :
    putField (field w 12 4) 12 ||| putField (field w 4 8) 4 ||| putField (field w 0 4) 0 = w := by
  ext i hi; interval_cases i <;> simp [field, putField]

theorem word_of_fields_3_5_4 (w : Word) :
    putField (field w 12 4) 12 ||| putField (field w 9 3) 9 ||| putField (field w 4 5) 4 ||| putField (field w 0 4) 0 =
      w := by
  ext i hi; interval_cases i <;> simp [field, putField]

theorem word_of_fields_3_3_4_2 (w : Word) :
    putField (field w 12 4) 12 ||| putField (field w 9 3) 9 ||| putField (field w 6 3) 6 ||| putField (field w 2 4) 2 |||
      putField (field w 0 2) 0 = w := by
  ext i hi; interval_cases i <;> simp [field, putField]

theorem word_of_fields_3_9 (w : Word) :
    putField (field w 12 4) 12 ||| putField (field w 9 3) 9 ||| putField (field w 0 9) 0 = w := by
  ext i hi; interval_cases i <;> simp [field, putField]

theorem word_of_fields_3_1_8 (w : Word) :
    putField (field w 12 4) 12 ||| putField (field w 9 3) 9 ||| putField (field w 8 1) 8 ||| putField (field w 0 8) 0 =
      w := by
  ext i hi; interval_cases i <;> simp [field, putField]

theorem word_of_fields_4_5_3 (w : Word) :
    putField (field w 12 4) 12 ||| putField (field w 8 4) 8 ||| putField (field w 3 5) 3 ||| putField (field w 0 3) 0 =
      w := by
  ext i hi; interval_cases i <;> simp [field, putField]

end Sys2Proof
end

