-- ==== Sys2Proof/Laws/PerInstr.lean ====
section
/-! SUPPORT. Facts about the instructions as syntax, one lemma per constructor: the word of an instruction lies in
its row of spec/opcode_table.json (30_encoding.md R102). -/

namespace Sys2Proof.Laws.TableRow

/-- The row of spec/opcode_table.json: its `mask` and its `match`. -/
def row : Instr → Word × Word
  | .nop => (0xFFFF, 0x0000)
  | .eni => (0xFFFF, 0x0001)
  | .dsi => (0xFFFF, 0x0002)
  | .stc => (0xFFFF, 0x0003)
  | .clc => (0xFFFF, 0x0004)
  | .cmc => (0xFFFF, 0x0005)
  | .rti => (0xFFFF, 0x0006)
  | .int _ => (0xFF00, 0x1000)
  | .add _ _ _ => (0xF007, 0x2000)
  | .addc _ _ _ => (0xF007, 0x2001)
  | .sub _ _ _ => (0xF007, 0x2002)
  | .subb _ _ _ => (0xF007, 0x2003)
  | .and _ _ _ => (0xF007, 0x2004)
  | .or _ _ _ => (0xF007, 0x2005)
  | .xor _ _ _ => (0xF007, 0x2006)
  | .cmp _ _ => (0xFE07, 0x3000)
  | .test _ _ => (0xFE07, 0x3001)
  | .neg _ => (0xF1FF, 0x4000)
  | .inc _ => (0xF1FF, 0x4001)
  | .dec _ => (0xF1FF, 0x4002)
  | .com _ => (0xF1FF, 0x4003)
  | .shr _ => (0xF1FF, 0x4004)
  | .shl _ => (0xF1FF, 0x4005)
  | .shra _ => (0xF1FF, 0x4006)
  | .shla _ => (0xF1FF, 0x4007)
  | .ror _ => (0xF1FF, 0x4008)
  | .rol _ => (0xF1FF, 0x4009)
  | .rorc _ => (0xF1FF, 0x400A)
  | .rolc _ => (0xF1FF, 0x400B)
  | .mov _ _ => (0xF03F, 0x5000)
  | .load _ _ => (0xF03F, 0x5001)
  | .stor _ _ => (0xF03F, 0x5002)
  | .mvi _ _ => (0xF000, 0x6000)
  | .mvih _ _ => (0xF100, 0x7000)
  | .mvil _ _ => (0xF100, 0x8000)
  | .br _ => (0xFF00, 0x9000)
  | .brZ _ => (0xFF00, 0x9100)
  | .brNZ _ => (0xFF00, 0x9200)
  | .brN _ => (0xFF00, 0x9300)
  | .brNN _ => (0xFF00, 0x9400)
  | .brP _ => (0xFF00, 0x9500)
  | .brNP _ => (0xFF00, 0x9600)
  | .brC _ => (0xFF00, 0x9700)
  | .brNC _ => (0xFF00, 0x9800)
  | .brO _ => (0xFF00, 0x9900)
  | .brNO _ => (0xFF00, 0x9A00)
  | .jmp _ => (0xFFF8, 0xA000)
  | .jmpZ _ => (0xFFF8, 0xA100)
  | .jmpNZ _ => (0xFFF8, 0xA200)
  | .jmpN _ => (0xFFF8, 0xA300)
  | .jmpNN _ => (0xFFF8, 0xA400)
  | .jmpP _ => (0xFFF8, 0xA500)
  | .jmpNP _ => (0xFFF8, 0xA600)
  | .jmpC _ => (0xFFF8, 0xA700)
  | .jmpNC _ => (0xFFF8, 0xA800)
  | .jmpO _ => (0xFFF8, 0xA900)
  | .jmpNO _ => (0xFFF8, 0xAA00)
  | .jal _ => (0xFFF8, 0xB000)
  | .jalZ _ => (0xFFF8, 0xB100)
  | .jalNZ _ => (0xFFF8, 0xB200)
  | .jalN _ => (0xFFF8, 0xB300)
  | .jalNN _ => (0xFFF8, 0xB400)
  | .jalP _ => (0xFFF8, 0xB500)
  | .jalNP _ => (0xFFF8, 0xB600)
  | .jalC _ => (0xFFF8, 0xB700)
  | .jalNC _ => (0xFFF8, 0xB800)
  | .jalO _ => (0xFFF8, 0xB900)
  | .jalNO _ => (0xFFF8, 0xBA00)

/-- The word of the instruction matches its row. -/
def Statement (i : Instr) : Prop := encode i &&& (row i).1 = (row i).2

theorem encodeK_masked (k : BitVec 8) : encodeK k &&& 0xFF00 = 0x1000 := by
  ext i hi; interval_cases i <;> simp [encodeK, putField]

theorem i9_masked (r : BitVec 3) (i : BitVec 9) : (0x6000 ||| putField r 9 ||| putField i 0) &&& 0xF000 = 0x6000 := by
  ext j hj; interval_cases j <;> simp [putField]

theorem i8_masked (major : BitVec 4) (r : BitVec 3) (i : BitVec 8) :
    (putField major 12 ||| putField r 9 ||| putField i 0) &&& 0xF100 = putField major 12 := by
  ext j hj; interval_cases j <;> simp [putField]

theorem r3_masked (d s t f : BitVec 3) :
    (0x2000 ||| putField d 9 ||| putField s 6 ||| putField t 3 ||| putField f 0) &&& 0xF007 = 0x2000 ||| putField f 0 := by
  ext j hj; interval_cases j <;> simp [putField]

theorem encodeB_masked (c : BitVec 4) (d : BitVec 8) : encodeB c d &&& 0xFF00 = 0x9000 ||| putField c 8 := by
  ext i hi; interval_cases i <;> simp [encodeB, putField]

theorem nop : Statement .nop := by rfl
theorem eni : Statement .eni := by rfl
theorem dsi : Statement .dsi := by rfl
theorem stc : Statement .stc := by rfl
theorem clc : Statement .clc := by rfl
theorem cmc : Statement .cmc := by rfl
theorem rti : Statement .rti := by rfl
theorem int (k : BitVec 8) : Statement (.int k) := encodeK_masked k
theorem add (op1 : Reg) (op2 : Reg) (op3 : Reg) : Statement (.add op1 op2 op3) := 
  r3_masked op1.bits op2.bits op3.bits _
theorem addc (op1 : Reg) (op2 : Reg) (op3 : Reg) : Statement (.addc op1 op2 op3) := 
  r3_masked op1.bits op2.bits op3.bits _
theorem sub (op1 : Reg) (op2 : Reg) (op3 : Reg) : Statement (.sub op1 op2 op3) := 
  r3_masked op1.bits op2.bits op3.bits _
theorem subb (op1 : Reg) (op2 : Reg) (op3 : Reg) : Statement (.subb op1 op2 op3) := 
  r3_masked op1.bits op2.bits op3.bits _
theorem and (op1 : Reg) (op2 : Reg) (op3 : Reg) : Statement (.and op1 op2 op3) := 
  r3_masked op1.bits op2.bits op3.bits _
theorem or (op1 : Reg) (op2 : Reg) (op3 : Reg) : Statement (.or op1 op2 op3) := 
  r3_masked op1.bits op2.bits op3.bits _
theorem xor (op1 : Reg) (op2 : Reg) (op3 : Reg) : Statement (.xor op1 op2 op3) := 
  r3_masked op1.bits op2.bits op3.bits _
theorem cmp (op1 : Reg) (op2 : Reg) : Statement (.cmp op1 op2) := by cases op1 <;> cases op2 <;> rfl
theorem test (op1 : Reg) (op2 : Reg) : Statement (.test op1 op2) := by cases op1 <;> cases op2 <;> rfl
theorem neg (op : Reg) : Statement (.neg op) := by cases op <;> rfl
theorem inc (op : Reg) : Statement (.inc op) := by cases op <;> rfl
theorem dec (op : Reg) : Statement (.dec op) := by cases op <;> rfl
theorem com (op : Reg) : Statement (.com op) := by cases op <;> rfl
theorem shr (op : Reg) : Statement (.shr op) := by cases op <;> rfl
theorem shl (op : Reg) : Statement (.shl op) := by cases op <;> rfl
theorem shra (op : Reg) : Statement (.shra op) := by cases op <;> rfl
theorem shla (op : Reg) : Statement (.shla op) := by cases op <;> rfl
theorem ror (op : Reg) : Statement (.ror op) := by cases op <;> rfl
theorem rol (op : Reg) : Statement (.rol op) := by cases op <;> rfl
theorem rorc (op : Reg) : Statement (.rorc op) := by cases op <;> rfl
theorem rolc (op : Reg) : Statement (.rolc op) := by cases op <;> rfl
theorem mov (op1 : Reg) (op2 : Reg) : Statement (.mov op1 op2) := by cases op1 <;> cases op2 <;> rfl
theorem load (op1 : Reg) (rx : Reg) : Statement (.load op1 rx) := by cases op1 <;> cases rx <;> rfl
theorem stor (rx : Reg) (op2 : Reg) : Statement (.stor rx op2) := by cases rx <;> cases op2 <;> rfl
theorem mvi (op1 : Reg) (c : BitVec 9) : Statement (.mvi op1 c) := i9_masked op1.bits c
theorem mvih (op1 : Reg) (b : BitVec 8) : Statement (.mvih op1 b) := i8_masked _ op1.bits b
theorem mvil (op1 : Reg) (b : BitVec 8) : Statement (.mvil op1 b) := i8_masked _ op1.bits b
theorem br (d : BitVec 8) : Statement (.br d) := encodeB_masked _ d
theorem brZ (d : BitVec 8) : Statement (.brZ d) := encodeB_masked _ d
theorem brNZ (d : BitVec 8) : Statement (.brNZ d) := encodeB_masked _ d
theorem brN (d : BitVec 8) : Statement (.brN d) := encodeB_masked _ d
theorem brNN (d : BitVec 8) : Statement (.brNN d) := encodeB_masked _ d
theorem brP (d : BitVec 8) : Statement (.brP d) := encodeB_masked _ d
theorem brNP (d : BitVec 8) : Statement (.brNP d) := encodeB_masked _ d
theorem brC (d : BitVec 8) : Statement (.brC d) := encodeB_masked _ d
theorem brNC (d : BitVec 8) : Statement (.brNC d) := encodeB_masked _ d
theorem brO (d : BitVec 8) : Statement (.brO d) := encodeB_masked _ d
theorem brNO (d : BitVec 8) : Statement (.brNO d) := encodeB_masked _ d
theorem jmp (r : Reg) : Statement (.jmp r) := by cases r <;> rfl
theorem jmpZ (r : Reg) : Statement (.jmpZ r) := by cases r <;> rfl
theorem jmpNZ (r : Reg) : Statement (.jmpNZ r) := by cases r <;> rfl
theorem jmpN (r : Reg) : Statement (.jmpN r) := by cases r <;> rfl
theorem jmpNN (r : Reg) : Statement (.jmpNN r) := by cases r <;> rfl
theorem jmpP (r : Reg) : Statement (.jmpP r) := by cases r <;> rfl
theorem jmpNP (r : Reg) : Statement (.jmpNP r) := by cases r <;> rfl
theorem jmpC (r : Reg) : Statement (.jmpC r) := by cases r <;> rfl
theorem jmpNC (r : Reg) : Statement (.jmpNC r) := by cases r <;> rfl
theorem jmpO (r : Reg) : Statement (.jmpO r) := by cases r <;> rfl
theorem jmpNO (r : Reg) : Statement (.jmpNO r) := by cases r <;> rfl
theorem jal (r : Reg) : Statement (.jal r) := by cases r <;> rfl
theorem jalZ (r : Reg) : Statement (.jalZ r) := by cases r <;> rfl
theorem jalNZ (r : Reg) : Statement (.jalNZ r) := by cases r <;> rfl
theorem jalN (r : Reg) : Statement (.jalN r) := by cases r <;> rfl
theorem jalNN (r : Reg) : Statement (.jalNN r) := by cases r <;> rfl
theorem jalP (r : Reg) : Statement (.jalP r) := by cases r <;> rfl
theorem jalNP (r : Reg) : Statement (.jalNP r) := by cases r <;> rfl
theorem jalC (r : Reg) : Statement (.jalC r) := by cases r <;> rfl
theorem jalNC (r : Reg) : Statement (.jalNC r) := by cases r <;> rfl
theorem jalO (r : Reg) : Statement (.jalO r) := by cases r <;> rfl
theorem jalNO (r : Reg) : Statement (.jalNO r) := by cases r <;> rfl

end Sys2Proof.Laws.TableRow
end

