-- ==== Sys2Proof/Tests/Slice0.lean ====
section
/-! SUPPORT. Tests of the model, and for every statement with hypotheses a state and operands that meet them.
Expected values come from spec/95_test_vectors.md (S, V and P numbers), from 30_encoding.md, or from a hand
calculation from the rule named. -/

namespace Sys2Proof.Tests
open Machine Claims

/-! ## Helpers -/

/-- A state between programs: reset, with pc = 0100h and R1 to R3 given. -/
def given (a b c : Word) : State :=
  { State.reset with regs := { State.reset.regs with r1 := a, r2 := b, r3 := c }, pc := 0x0100 }

/-- The state with given C and the other flags 0. -/
def withC (s : State) (c : Bool) : State := s.setRe { Flags.clear with c := c }

/-- The state of a next outcome. -/
def nextOf (o : Host.Outcome State Fault Refusal) : Option State :=
  match o with
  | .next t => some t
  | .fault _ => none
  | .refused _ => none

/-- The reason of a refused outcome. -/
def refusalOf (o : Host.Outcome State Fault Refusal) : Option Refusal :=
  match o with
  | .next _ => none
  | .fault _ => none
  | .refused r => some r

/-- R1 and Z, C, N, O, as the tables of 95_test_vectors.md give them. -/
structure Seen where
  r1 : Word
  z : Bool
  c : Bool
  n : Bool
  o : Bool
deriving DecidableEq

/-- What an instruction leaves in R1 and the flags. -/
def r1Flags (i : Instr) (s : State) : Option Seen :=
  (nextOf (exec i s)).map fun t => { r1 := t.regs.r1, z := t.re.z, c := t.re.c, n := t.re.n, o := t.re.o }

/-- A field after an instruction. -/
def after {α : Type} (i : Instr) (s : State) (f : State → α) : Option α := (nextOf (exec i s)).map f

/-- A machine under the other settings of SUB_CARRY and SHRA_FILL. -/
def otherSettings (s : State) : State :=
  { s with params := { s.params with subCarry := .borrow, shraFill := .sign } }

/-- A machine with a 15-bit pc whose instructions have no delay slot but INT and RTI, whose ENCODING has two rows, and
which starts at 8123h, which its pc holds as 0123h. -/
def otherControl (s : State) : State :=
  { s with
    params :=
      { s.params with
        encoding := .table [(0xBEEF, .inc .r1), (0x0000, .dec .r1)]
        pcWidth := .bits15
        resetPc := 0x8123
        delaySlotSet := [.int, .rti] } }

/-! ## Decoding: one word for every instruction, from the encoding tables of 30_encoding.md R88 to R98 -/

theorem test_decode_Z :
    decodeWord 0x0000 = .ok .nop ∧
    decodeWord 0x0001 = .ok .eni ∧
    decodeWord 0x0002 = .ok .dsi ∧
    decodeWord 0x0003 = .ok .stc ∧
    decodeWord 0x0004 = .ok .clc ∧
    decodeWord 0x0005 = .ok .cmc ∧
    decodeWord 0x0006 = .ok .rti := by
  decide

theorem test_decode_K :
    decodeWord 0x10F0 = .ok (.int 0xF0) := by
  decide

theorem test_decode_R3 :
    decodeWord 0x29D8 = .ok (.add .r4 .r7 .r3) ∧
    decodeWord 0x2F11 = .ok (.addc .r7 .r4 .r2) ∧
    decodeWord 0x244A = .ok (.sub .r2 .r1 .r1) ∧
    decodeWord 0x2B83 = .ok (.subb .r5 .r6 .r0) ∧
    decodeWord 0x20FC = .ok (.and .r0 .r3 .r7) ∧
    decodeWord 0x2635 = .ok (.or .r3 .r0 .r6) ∧
    decodeWord 0x2D6E = .ok (.xor .r6 .r5 .r5) := by
  decide

theorem test_decode_R2 :
    decodeWord 0x3050 = .ok (.cmp .r1 .r2) ∧
    decodeWord 0x3139 = .ok (.test .r4 .r7) := by
  decide

theorem test_decode_R1 :
    decodeWord 0x4E00 = .ok (.neg .r7) ∧
    decodeWord 0x4401 = .ok (.inc .r2) ∧
    decodeWord 0x4A02 = .ok (.dec .r5) ∧
    decodeWord 0x4003 = .ok (.com .r0) ∧
    decodeWord 0x4604 = .ok (.shr .r3) ∧
    decodeWord 0x4C05 = .ok (.shl .r6) ∧
    decodeWord 0x4206 = .ok (.shra .r1) ∧
    decodeWord 0x4807 = .ok (.shla .r4) ∧
    decodeWord 0x4E08 = .ok (.ror .r7) ∧
    decodeWord 0x4409 = .ok (.rol .r2) ∧
    decodeWord 0x4A0A = .ok (.rorc .r5) ∧
    decodeWord 0x400B = .ok (.rolc .r0) := by
  decide

theorem test_decode_T :
    decodeWord 0x5600 = .ok (.mov .r3 .r0) ∧
    decodeWord 0x5D41 = .ok (.load .r6 .r5) ∧
    decodeWord 0x5282 = .ok (.stor .r1 .r2) := by
  decide

theorem test_decode_I9 :
    decodeWord 0x6980 = .ok (.mvi .r4 0x180) := by
  decide

theorem test_decode_I8 :
    decodeWord 0x7EA5 = .ok (.mvih .r7 0xA5) ∧
    decodeWord 0x84A5 = .ok (.mvil .r2 0xA5) := by
  decide

theorem test_decode_B :
    decodeWord 0x90A4 = .ok (.br 0xA4) ∧
    decodeWord 0x91A5 = .ok (.brZ 0xA5) ∧
    decodeWord 0x92A6 = .ok (.brNZ 0xA6) ∧
    decodeWord 0x93A7 = .ok (.brN 0xA7) ∧
    decodeWord 0x94A8 = .ok (.brNN 0xA8) ∧
    decodeWord 0x95A9 = .ok (.brP 0xA9) ∧
    decodeWord 0x96AA = .ok (.brNP 0xAA) ∧
    decodeWord 0x97AB = .ok (.brC 0xAB) ∧
    decodeWord 0x98AC = .ok (.brNC 0xAC) ∧
    decodeWord 0x99AD = .ok (.brO 0xAD) ∧
    decodeWord 0x9AAE = .ok (.brNO 0xAE) := by
  decide

theorem test_decode_Jmp :
    decodeWord 0xA006 = .ok (.jmp .r6) ∧
    decodeWord 0xA101 = .ok (.jmpZ .r1) ∧
    decodeWord 0xA204 = .ok (.jmpNZ .r4) ∧
    decodeWord 0xA307 = .ok (.jmpN .r7) ∧
    decodeWord 0xA402 = .ok (.jmpNN .r2) ∧
    decodeWord 0xA505 = .ok (.jmpP .r5) ∧
    decodeWord 0xA600 = .ok (.jmpNP .r0) ∧
    decodeWord 0xA703 = .ok (.jmpC .r3) ∧
    decodeWord 0xA806 = .ok (.jmpNC .r6) ∧
    decodeWord 0xA901 = .ok (.jmpO .r1) ∧
    decodeWord 0xAA04 = .ok (.jmpNO .r4) := by
  decide

theorem test_decode_Jal :
    decodeWord 0xB007 = .ok (.jal .r7) ∧
    decodeWord 0xB102 = .ok (.jalZ .r2) ∧
    decodeWord 0xB205 = .ok (.jalNZ .r5) ∧
    decodeWord 0xB300 = .ok (.jalN .r0) ∧
    decodeWord 0xB403 = .ok (.jalNN .r3) ∧
    decodeWord 0xB506 = .ok (.jalP .r6) ∧
    decodeWord 0xB601 = .ok (.jalNP .r1) ∧
    decodeWord 0xB704 = .ok (.jalC .r4) ∧
    decodeWord 0xB807 = .ok (.jalNC .r7) ∧
    decodeWord 0xB902 = .ok (.jalO .r2) ∧
    decodeWord 0xBA05 = .ok (.jalNO .r5) := by
  decide


/-- The words that are no instruction, some for each rejection (30_encoding.md R99). -/
theorem test_decode_rejects :
    decodeWord 0xC000 = .error .reservedMajor ∧ decodeWord 0xFFFF = .error .reservedMajor ∧
    decodeWord 0x0007 = .error .reservedFunction ∧ decodeWord 0x2007 = .error .reservedFunction ∧
    decodeWord 0x3002 = .error .reservedFunction ∧ decodeWord 0x400C = .error .reservedFunction ∧
    decodeWord 0x5003 = .error .reservedFunction ∧ decodeWord 0x9B00 = .error .reservedCondition ∧
    decodeWord 0xAB00 = .error .reservedCondition ∧ decodeWord 0xBF00 = .error .reservedCondition ∧
    decodeWord 0x0010 = .error .mustBeZero ∧ decodeWord 0x1100 = .error .mustBeZero ∧
    decodeWord 0x3200 = .error .mustBeZero ∧ decodeWord 0x4010 = .error .mustBeZero ∧
    decodeWord 0x5004 = .error .mustBeZero ∧ decodeWord 0x7100 = .error .mustBeZero ∧
    decodeWord 0x8100 = .error .mustBeZero ∧ decodeWord 0xA008 = .error .mustBeZero ∧
    decodeWord 0x6300 = .error .reservedConstant ∧ decodeWord 0x637F = .error .reservedConstant ∧
    decodeWord 0x6380 = .ok (.mvi .r1 0x180) := by
  decide

/-- The low octet of a word comes first, and the octets after it are left (log 2). -/
theorem test_decode_octets :
    decode [0x98, 0x22, 0x05] = .ok (.add .r1 .r2 .r3, [0x05]) ∧ decode [0x98] = .error .truncated ∧
    decodeTableWord 16 0x2298 = some (.add .r1 .r2 .r3) ∧ decodeTableWord 16 0xC000 = none := by
  decide

/-- The check refuses an MVI constant outside -128 to 255 and takes the bounds (30_encoding.md R94). -/
theorem test_wellFormed_mvi :
    (Instr.mvi .r1 0x100).wellFormed = false ∧ (Instr.mvi .r1 0x17F).wellFormed = false ∧
    (Instr.mvi .r1 0x0FF).wellFormed = true ∧ (Instr.mvi .r1 0x180).wellFormed = true := by
  decide

/-! ## Instructions -/

/-- V2, V3, V5. -/
theorem test_add :
    r1Flags (.add .r1 .r2 .r3) (given 0 0xFFFF 1) = some ⟨0x0000, true, true, false, false⟩ ∧
    r1Flags (.add .r1 .r2 .r3) (given 0 0x7FFF 1) = some ⟨0x8000, false, false, true, true⟩ ∧
    r1Flags (.add .r0 .r2 .r3) (given 7 0x8000 0x8000) = some ⟨7, true, true, false, true⟩ := by
  decide

/-- V10, V11, V12. -/
theorem test_addc :
    r1Flags (.addc .r1 .r2 .r3) (withC (given 0 0xFFFF 0xFFFF) true) = some ⟨0xFFFF, false, true, true, false⟩ ∧
    r1Flags (.addc .r1 .r2 .r3) (withC (given 0 0x7FFF 0) true) = some ⟨0x8000, false, false, true, true⟩ ∧
    r1Flags (.addc .r1 .r2 .r3) (withC (given 0 0x7FFF 0) false) = some ⟨0x7FFF, false, false, false, false⟩ := by
  decide

/-- V13, V14, V17, V19; V259 and V260 under SUB_CARRY = borrow. -/
theorem test_sub :
    r1Flags (.sub .r1 .r2 .r3) (given 0 5 3) = some ⟨2, false, true, false, false⟩ ∧
    r1Flags (.sub .r1 .r2 .r3) (given 0 3 5) = some ⟨0xFFFE, false, false, true, false⟩ ∧
    r1Flags (.sub .r1 .r2 .r3) (given 0 0x8000 1) = some ⟨0x7FFF, false, true, false, true⟩ ∧
    r1Flags (.sub .r1 .r2 .r3) (given 0 0 0x8000) = some ⟨0x8000, false, false, true, true⟩ ∧
    r1Flags (.sub .r1 .r2 .r3) (otherSettings (given 0 5 3)) = some ⟨2, false, false, false, false⟩ ∧
    r1Flags (.sub .r1 .r2 .r3) (otherSettings (given 0 3 5)) = some ⟨0xFFFE, false, true, true, false⟩ := by
  decide

/-- V22, V23, V25, V26; V269 under SUB_CARRY = borrow. -/
theorem test_subb :
    r1Flags (.subb .r1 .r2 .r3) (withC (given 0 5 3) false) = some ⟨1, false, true, false, false⟩ ∧
    r1Flags (.subb .r1 .r2 .r3) (withC (given 0 5 3) true) = some ⟨2, false, true, false, false⟩ ∧
    r1Flags (.subb .r1 .r2 .r3) (withC (given 0 0 0xFFFF) false) = some ⟨0, true, false, false, false⟩ ∧
    r1Flags (.subb .r1 .r2 .r3) (withC (given 0 0x8000 0) false) = some ⟨0x7FFF, false, true, false, true⟩ ∧
    r1Flags (.subb .r1 .r2 .r3) (otherSettings (withC (given 0 0 0xFFFF) false)) =
      some ⟨0, true, true, false, false⟩ := by
  decide

/-- V28, V31, V33. -/
theorem test_cmp :
    r1Flags (.cmp .r1 .r2) (given 3 5 0) = some ⟨3, false, false, true, false⟩ ∧
    r1Flags (.cmp .r1 .r2) (given 0x8000 1 0) = some ⟨0x8000, false, true, false, true⟩ ∧
    r1Flags (.cmp .r1 .r2) (given 1 0xFFFF 0) = some ⟨1, false, false, false, false⟩ := by
  decide

/-- V35, V37, V39. -/
theorem test_neg :
    r1Flags (.neg .r1) (given 0 0 0) = some ⟨0, true, true, false, false⟩ ∧
    r1Flags (.neg .r1) (given 5 0 0) = some ⟨0xFFFB, false, false, true, false⟩ ∧
    r1Flags (.neg .r1) (given 0x8000 0 0) = some ⟨0x8000, false, false, true, true⟩ := by
  decide

/-- V44, V46. -/
theorem test_inc :
    r1Flags (.inc .r1) (given 0x7FFF 0 0) = some ⟨0x8000, false, false, true, true⟩ ∧
    r1Flags (.inc .r1) (given 0xFFFF 0 0) = some ⟨0, true, true, false, false⟩ := by
  decide

/-- V47, V51. -/
theorem test_dec :
    r1Flags (.dec .r1) (given 0 0 0) = some ⟨0xFFFF, false, false, true, false⟩ ∧
    r1Flags (.dec .r1) (given 0x8000 0 0) = some ⟨0x7FFF, false, true, false, true⟩ := by
  decide

/-- V56, V60, V64, V71 from C = 1 and O = 1, which a logic instruction keeps. -/
theorem test_logic :
    let s := (given 0x00FF 0xF0F0 0x0FF0).setRe { Flags.clear with c := true, o := true }
    r1Flags (.and .r1 .r2 .r3) s = some ⟨0x00F0, false, true, false, true⟩ ∧
    r1Flags (.or .r1 .r2 .r3) s = some ⟨0xFFF0, false, true, true, true⟩ ∧
    r1Flags (.xor .r1 .r2 .r3) s = some ⟨0xFF00, false, true, true, true⟩ ∧
    r1Flags (.com .r1) s = some ⟨0xFF00, false, true, true, true⟩ := by
  decide

/-- V76, V77. -/
theorem test_test :
    r1Flags (.test .r1 .r2) (given 0x8001 0x8000 0) = some ⟨0x8001, false, false, true, false⟩ ∧
    r1Flags (.test .r1 .r2) (given 0x00F0 0x0F00 0) = some ⟨0x00F0, true, false, false, false⟩ := by
  decide

/-- V78, V85, V106, V113 with O = 1, which they keep. -/
theorem test_shifts :
    let s := (given 0x8003 0 0).setRe { Flags.clear with o := true }
    r1Flags (.shr .r1) s = some ⟨0x4001, false, true, false, true⟩ ∧
    r1Flags (.shl .r1) s = some ⟨0x0006, false, true, false, true⟩ ∧
    r1Flags (.ror .r1) s = some ⟨0xC001, false, true, true, true⟩ ∧
    r1Flags (.rol .r1) s = some ⟨0x0007, false, true, false, true⟩ := by
  decide

/-- V92, V93, V103, V101; V270, V271 under SHRA_FILL = sign. -/
theorem test_arithmetic_shifts :
    r1Flags (.shra .r1) (given 0x8003 0 0) = some ⟨0x4001, false, true, false, true⟩ ∧
    r1Flags (.shra .r1) (given 1 0 0) = some ⟨0, true, true, false, false⟩ ∧
    r1Flags (.shla .r1) (given 0xC001 0 0) = some ⟨0x8002, false, true, true, false⟩ ∧
    r1Flags (.shla .r1) (given 0x4000 0 0) = some ⟨0x8000, false, false, true, true⟩ ∧
    r1Flags (.shra .r1) (otherSettings (given 0x8003 0 0)) = some ⟨0xC001, false, true, true, false⟩ ∧
    r1Flags (.shra .r1) (otherSettings (given 1 0 0)) = some ⟨0, true, true, false, false⟩ := by
  decide

/-- V120, V121, V127, V130. -/
theorem test_rotates_through_carry :
    r1Flags (.rorc .r1) (withC (given 2 0 0) true) = some ⟨0x8001, false, false, true, false⟩ ∧
    r1Flags (.rorc .r1) (withC (given 1 0 0) false) = some ⟨0, true, true, false, false⟩ ∧
    r1Flags (.rolc .r1) (withC (given 2 0 0) true) = some ⟨5, false, false, false, false⟩ ∧
    r1Flags (.rolc .r1) (withC (given 0x8000 0 0) false) = some ⟨0, true, true, false, false⟩ := by
  decide

/-- V136, V138, V142, V144, V143, V149, V153, V155. -/
theorem test_transfer :
    after (.mov .r1 .r2) (given 0 0x1234 0) (·.regs.r1) = some 0x1234 ∧
    after (.mov .r0 .r1) (given 0xFFFF 0 0) (·.reg .r0) = some 0 ∧
    after (.mvi .r1 0x1FF) (given 0 0 0) (·.regs.r1) = some 0xFFFF ∧
    after (.mvi .r1 0x180) (given 0 0 0) (·.regs.r1) = some 0xFF80 ∧
    after (.mvi .r1 0x0FF) (given 0 0 0) (·.regs.r1) = some 0x00FF ∧
    after (.mvih .r1 0xFF) (given 0x1234 0 0) (·.regs.r1) = some 0xFF34 ∧
    after (.mvil .r1 0xFF) (given 0x1234 0 0) (·.regs.r1) = some 0x12FF ∧
    after (.mvil .r1 0x80) (given 0x1200 0 0) (·.regs.r1) = some 0x1280 := by
  decide

/-- V163, V166, V167, V169, V172. -/
theorem test_memory :
    after (.stor .r1 .r2) (given 0x8000 0x1234 0) (·.dmem) = some [(0, 0x34), (1, 0x12)] ∧
    after (.stor .r1 .r2) (given 0x7FFF 1 0) (·.dmem) = some [(65534, 0x01), (65535, 0x00)] ∧
    after (.stor .r1 .r2) (given 0xFEFF 2 0) (fun t => Memory.word t.dmem 0x7EFF) = some 2 ∧
    after (.stor .r1 .r2) (given 0x7FF8 0x0155 0) (fun t => (Memory.word t.dmem 0x7FF8, t.dev.led)) =
      some (0x0155, 0) ∧
    after (.load .r1 .r1) { given 0x0020 0 0 with dmem := Memory.setWord [] 0x20 0x0BAD } (·.regs.r1) =
      some 0x0BAD := by
  decide

/-- V174, V175, V188, V187, V190, V192, V210, V211. -/
theorem test_relative_jumps :
    after (.br 127) (given 0 0 0) (fun t => (t.pc, t.ds)) = some (0x0101, some 0x017F) ∧
    after (.br 0x80) (given 0 0 0) (·.ds) = some (some 0x0080) ∧
    after (.brP 5) ((given 0 0 0).setRe { Flags.clear with z := true }) (·.ds) = some none ∧
    after (.brP 5) (given 0 0 0) (·.ds) = some (some 0x0105) ∧
    after (.brNP 5) ((given 0 0 0).setRe { Flags.clear with z := true }) (·.ds) = some (some 0x0105) ∧
    after (.brNP 5) (given 0 0 0) (·.ds) = some none ∧
    after (.br 0xFE) { given 0 0 0 with pc := 1 } (·.ds) = some (some 0xFFFF) ∧
    after (.br 5) { given 0 0 0 with pc := 0xFFFE } (·.ds) = some (some 0x0003) := by
  decide

/-- V179 to V186 and V193 to V200: each condition with its flag 1 and 0. -/
theorem test_conditions :
    let set := (given 0 0 0).setRe { e := true, z := true, c := true, n := true, o := true }
    let clear := given 0 0 0
    (after (.brZ 5) set (·.ds) = some (some 0x0105) ∧ after (.brZ 5) clear (·.ds) = some none) ∧
    (after (.brNZ 5) set (·.ds) = some none ∧ after (.brNZ 5) clear (·.ds) = some (some 0x0105)) ∧
    (after (.brN 5) set (·.ds) = some (some 0x0105) ∧ after (.brN 5) clear (·.ds) = some none) ∧
    (after (.brNN 5) set (·.ds) = some none ∧ after (.brNN 5) clear (·.ds) = some (some 0x0105)) ∧
    (after (.brC 5) set (·.ds) = some (some 0x0105) ∧ after (.brC 5) clear (·.ds) = some none) ∧
    (after (.brNC 5) set (·.ds) = some none ∧ after (.brNC 5) clear (·.ds) = some (some 0x0105)) ∧
    (after (.brO 5) set (·.ds) = some (some 0x0105) ∧ after (.brO 5) clear (·.ds) = some none) ∧
    (after (.brNO 5) set (·.ds) = some none ∧ after (.brNO 5) clear (·.ds) = some (some 0x0105)) := by
  decide

/-- V203 to V209: the link is the jump's own address plus 2; JAL R7 goes to the old R7. -/
theorem test_absolute_jumps :
    after (.jmp .r1) (given 0x8010 0 0) (fun t => (t.ds, t.regs.r7)) = some (some 0x8010, 0) ∧
    after (.jmpC .r2) (withC (given 0 0x8010 0) true) (·.ds) = some (some 0x8010) ∧
    after (.jmpC .r2) (withC (given 0 0x8010 0) false) (·.ds) = some none ∧
    after (.jal .r1) (given 0x0200 0 0) (fun t => (t.ds, t.regs.r7)) = some (some 0x0200, 0x0102) ∧
    after (.jal .r7) ((given 0 0 0).setReg .r7 0x0300) (fun t => (t.ds, t.regs.r7)) = some (some 0x0300, 0x0102) ∧
    after (.jalNO .r1) ((given 0x0200 0 0).setRe { Flags.clear with o := true }) (fun t => (t.ds, t.regs.r7)) =
      some (none, 0) ∧
    after (.jalNO .r1) (given 0x0200 0 0) (fun t => (t.ds, t.regs.r7)) = some (some 0x0200, 0x0102) := by
  decide

/-- V213, V215: INT enters whatever E and the mask are. -/
theorem test_int :
    let s := { (given 0 0 0).setRe { Flags.clear with z := true } with pc := 0x0040 }
    after (.int 0xF0) s (fun t => (t.pc, t.pcE, t.reE, t.re.e, t.ds)) =
      some (0x7FF0, 0x0041, { Flags.clear with z := true }, false, none) ∧
    after (.int 0xFF) s (·.pc) = some 0x7FFF := by
  decide

/-- V216. -/
theorem test_rti :
    let f := { Flags.clear with e := true, c := true }
    after .rti { given 0 0 0 with pcE := 0x0013, reE := f } (fun t => (t.pc, t.re, t.pcE, t.reE, t.ds)) =
      some (0x0013, f, 0x0013, f, none) := by
  decide

/-- 45_generic.md R250 to R255, from C = 1 and all else 0 unless the line says else. -/
theorem test_generic :
    let s := withC (given 0 0 0) true
    after .nop s (fun t => (t.pc, t.re)) = some (0x0101, { Flags.clear with c := true }) ∧
    after .eni s (·.re) = some { Flags.clear with e := true, c := true } ∧
    after .dsi (s.setRe { s.re with e := true }) (·.re) = some { Flags.clear with c := true } ∧
    after .stc (given 0 0 0) (·.re) = some { Flags.clear with c := true } ∧ after .clc s (·.re) = some Flags.clear ∧
    after .cmc s (·.re) = some Flags.clear := by
  decide

/-- V217: the slot runs, then the target. -/
theorem test_delay_slot :
    after (.inc .r1) { given 0 0 0 with ds := some 0x0003 } (fun t => (t.pc, t.ds, t.regs.r1)) =
      some (0x0003, none, 1) := by
  decide

/-- V219: a control instruction in the slot of a taken jump. -/
theorem test_control_in_slot :
    refusalOf (exec (.br 4) { given 0 0 0 with ds := some 0x0002 }) = some .controlInDelaySlot ∧
    refusalOf (exec .rti { given 0 0 0 with ds := some 0x0002 }) = some .controlInDelaySlot := by
  decide

/-- PC_WIDTH = 15 and another DELAY_SLOT_SET (00_scope.md R9; 10_state.md R24, R25): pc wraps at 8000h, jumps go to
their target at once and lose bit 15 of it, the link is a pc, and INT and RTI have a slot. -/
theorem test_other_control :
    let s := otherControl (given 0x8010 0 0)
    after .nop { s with pc := 0x7FFF } (·.pc) = some 0 ∧
    after (.jmp .r1) s (fun t => (t.pc, t.ds)) = some (0x0010, none) ∧
    after (.br 0xFE) { s with pc := 1 } (fun t => (t.pc, t.ds)) = some (0x7FFF, none) ∧
    after (.jal .r1) { s with pc := 0x7FFE } (fun t => (t.pc, t.regs.r7)) = some (0x0010, 0) ∧
    after (.int 4) s (fun t => (t.pc, t.pcE, t.ds)) = some (0x0101, 0x0101, some 0x7F04) ∧
    after .rti { s with pcE := 0x0055 } (fun t => (t.pc, t.ds)) = some (0x0101, some 0x0055) ∧
    s.hostReset.pc = 0x0123 := by
  decide

/-- An ENCODING that is not PE-1 (30_encoding.md R85): a step decodes by its rows. -/
theorem test_other_encoding :
    let s := otherControl (given 5 0 0)
    (nextOf (step (s.withFetchWord 16 0xBEEF))).map (·.regs.r1) = some 6 ∧
    (nextOf (step (s.withFetchWord 16 0x0000))).map (·.regs.r1) = some 4 ∧
    refusalOf (step (s.withFetchWord 16 0x2298)) = some (.reservedWord .unassigned) ∧
    encodeBy s.params.encoding (.dec .r1) = some 0x0000 ∧ encodeBy s.params.encoding .nop = none := by
  decide

/-! ## Ports and interrupts -/

/-- V230, V232, V233, V234, V237. -/
theorem test_terminal :
    let t := Devices.initial.term
    t.putChar 0x41 = { t with cells := [(0, ⟨0x41, 0, 0⟩)], cursor := .at 0 1 } ∧
    ({ t with cursor := .at 0 79 } : Terminal).putChar 0x42 =
      { t with cells := [(79, ⟨0x42, 0, 0⟩)], cursor := .at 1 0 } ∧
    (({ t with cursor := .at 44 79 } : Terminal).putChar 0x43).cursor = .at 0 0 ∧
    (t.setCursor 0x0A14).cursor = .at 10 20 ∧
    (t.setColour 0xEC03).bg = 0xEC ∧ (t.setColour 0xEC03).fg = 0x03 := by
  decide

/-- V239, V240: the last key is given once. -/
theorem test_keyboard :
    let s := ((given 0xFFFF 0xFFFD 0).applyEvent (.key 0x0078)).applyEvent (.key 0x0079)
    after (.load .r3 .r2) s (·.regs.r3) = some 1 ∧ after (.load .r3 .r1) s (·.regs.r3) = some 0x0079 ∧
    after (.load .r3 .r1) s (·.dev.term.keyFlag) = some false ∧
    after (.load .r3 .r1) (given 0xFFFF 0 5) (·.regs.r3) = some 0 := by
  decide

/-- V243, V244, V245. -/
theorem test_timer :
    let s := { State.reset with dev := { Devices.initial with timer := { run := true, duration := 3, elapsed := 2 } } }
    s.timerTick.dev.timer = { run := false, duration := 3, elapsed := 3 } ∧ s.timerTick.ip = 0x8000 ∧
    s.timerTick.timerTick = s.timerTick ∧
    s.dev.timer.control 0 = { run := false, duration := 3, elapsed := 2 } := by
  decide

/-- V248, V250, V249, V252, V253, V254. -/
theorem test_ports :
    after (.stor .r1 .r2) (given 0xFFFA 0x8000 0) (·.im) = some 0x8000 ∧
    after (.stor .r1 .r2) (given 0xFFF8 0xFFFF 0) (·.dev.led) = some 0x3FF ∧
    after (.load .r3 .r1) (((given 0xFFF9 0 0).applyEvent (.switch 0 true)).applyEvent (.switch 9 true)) (·.regs.r3) =
      some 0x0201 ∧
    (Devices.initial.lcd.control 0x8013).putChar 0x48 = { cells := [(19, 0x48)], line := 1, col := 4, on := true } ∧
    (Devices.initial.lcd.control 0x801F).putChar 0x21 = { cells := [(31, 0x21)], line := 0, col := 0, on := true } ∧
    after (.stor .r1 .r2) (given 0xFFF0 0x001A 0) (·.dev.disp.d0) = some 0xA ∧
    after (.stor .r1 .r2) (given 0xFFEF 0x0005 0) (·.dev.disp.d5) = some 5 := by
  decide

/-- V222, V223, V226, V228: a boundary at which a button was pressed. -/
theorem test_hardware_interrupt :
    let s : State := { State.reset.setRe { Flags.clear with e := true } with pc := 0x0200, inputs := [[.button .key0]] }
    (nextOf (step { s with im := 1 })).map (fun t => (t.pc, t.pcE, t.reE.e, t.re.e, t.ip)) =
      some (0x7F00, 0x0200, true, false, 0) ∧
    (nextOf (step { s with im := 4, inputs := [[.button .right]] })).map (·.pc) = some 0x7F20 ∧
    s.deliver.accepted = none ∧ s.deliver.ip = 1 ∧
    ({ s with im := 1, ds := some 0x0300 } : State).deliver.accepted = none := by
  decide

/-- V225, V226: a request while it cannot be taken is kept under latch and lost under drop. -/
theorem test_irq_policy :
    (State.reset.applyEvent (.button .key0)).ip = 1 ∧
    ({ State.reset with params := { Config.Params.default with irqPolicy := .drop } }.applyEvent (.button .key0)).ip =
      0 := by
  decide

/-! ## Step, simulator, assembler -/

/-- The first instruction after reset, placed by `withFetchWord`: V140. -/
theorem test_step_first :
    (nextOf (step (State.reset.withFetchWord 16 0x6205))).map (fun t => (t.regs.r1, t.pc)) = some (5, 1) := by
  decide

/-- Nothing loaded (U2) and a reserved word (U1). -/
theorem test_step_refuses :
    refusalOf (step State.reset) = some .unloadedProgram ∧
    refusalOf (step (State.reset.withFetchWord 16 0xFFFF)) = some (.reservedWord .reservedMajor) := by
  decide

/-- The simulator after a control. -/
def simOf (o : Host.Outcome Sim Fault Refusal) : Option Sim :=
  match o with
  | .next m => some m
  | .fault _ => none
  | .refused _ => none

/-- Whether a simulator runs on, and its pc. -/
def shown (o : Host.Outcome Sim Fault Refusal) : Option (Bool × Word) :=
  (simOf o).map fun m => (m.running, m.machine.pc)

/-- A running simulator with NOP at 0000h and breakpoints. -/
def simulator (breakpoints : List Nat) : Sim :=
  { machine := State.reset.withFetchWord 16 0, running := true, breakpoints := breakpoints, passed := false, clock := 9
    steps := 0 }

/-- 80_host_simulator.md R386: the machine stops immediately before the instruction, at the first Start and after a
Reset too; Start and Step then pass it. -/
theorem test_breakpoint :
    let m := simulator [0]
    let waiting : Sim := { m with passed := true, machine := { m.machine with pc := 7, inputs := [[.reset]] } }
    shown m.proceed = some (false, 0) ∧ ((simOf m.proceed).map fun n => shown n.start.proceed) = some (some (true, 1)) ∧
    shown waiting.proceed = some (false, 0) ∧ shown m.stepOnce = some (false, 1) ∧
    shown (simulator [1]).proceed = some (true, 1) := by
  decide

/-- 80_host_simulator.md R382, R384, R388: no tick while stopped; a key given before Reset leaves nothing behind. -/
theorem test_simulator_events :
    let timed : Sim :=
      { simulator [] with
        machine :=
          { State.reset with
            dev := { Devices.initial with timer := { run := true, duration := 9, elapsed := 0 } }
            inputs := [[.key 0x41]] } }
    (timed.stop.give .tick).machine.dev.timer.elapsed = 0 ∧ (timed.give .tick).machine.dev.timer.elapsed = 1 ∧
    (timed.give .tick).machine.ip = 0x80 ∧ timed.reset.machine.ip = 0 ∧ timed.reset.machine.dev.term.key = 0 ∧
    timed.reset.machine.inputs = [[]] ∧ timed.reset.clock = 0 ∧ timed.reset.running = true := by
  decide

/-- 80_host_simulator.md R387, R390: the panels, and the result of a run that is refused. -/
theorem test_observation :
    let s : State := { (given 0xFFF8 3 0) with pmem := Memory.setWord [] 0x100 0x5282, dmem := Memory.setWord [] 1 7 }
    s.programPanel 0x80FF 3 = [none, some 0x5282, none] ∧ (s.dataPanel 1 1) = [7] ∧
    s.nextLine [(0x0100, 4)] = some 4 ∧ s.peripherals.led = 0 ∧
    (match s.observe 1 with | .next r => some (r.writes, r.final.peripherals.led) | _ => none) =
      some ([(0xFFF8, 3)], 3) ∧
    (match s.observe 2 with | .refused why => some why | _ => none) = some .unloadedProgram := by
  decide

/-- The assembler's parameters at the spec's defaults, one instruction for the MVI of a symbol where it fits. -/
def asm : Config.AsmParams := .default .fitting

/-- A line with an instruction. -/
def line (m : AsmInstr) : Line := { stmt := some (.instr m) }

/-- A line with a label and an instruction. -/
def named (l : String) (m : AsmInstr) : Line := { label := some (.global l), stmt := some (.instr m) }

/-- A line with a directive. -/
def dir (d : Stmt) : Line := { stmt := some d }

/-- The symbol of a global name. -/
def sym (l : String) : Expr := .sym (.global l)

/-- The lines in error. -/
def errorsOf (lines : List Line) : List (Nat × AsmError) :=
  match assemble asm lines with
  | .ok _ => []
  | .error es => es

/-- Every line after an ORIG in error is checked, though it has no address (35_assembler.md R136): a constant out of range,
a jump to a label with no address, one to a constant distance, a symbol defined twice; a next ORIG gives one again. -/
theorem test_assemble_after_error :
    errorsOf [named "K" (.plain .nop), dir (.orig (.const 70000)), line (.int (.const 256)), named "L" (.plain .nop),
        line (.br none (sym "L")), line (.br none (.const 3)), line (.br none (sym "K")), named "L" (.plain .nop),
        dir (.word "W" (sym "U")), dir (.orig (.const 8)), line (.br none (sym "K"))] =
      [(2, .constantRange), (3, .constantRange), (5, .noValue), (7, .noValue), (8, .duplicateSymbol),
        (9, .undefinedSymbol)] := by
  decide

/-- P1 assembled: the words that 95_test_vectors.md prints, with the NOPs of the delay slots; and the lines they came
from. -/
theorem test_assemble_P1 :
    (assemble asm
        [line (.mvi .r1 (.const 5)), line (.mvi .r2 (.const 0)), named "Loop" (.plain (.add .r2 .r2 .r1)),
          line (.plain (.dec .r1)), line (.br (some .nz) (sym "Loop")), named "End" (.br none (sym "End"))]).toOption.map
        (fun p => (p.program.map Prod.snd, p.source.map Prod.snd)) =
      some ([0x6205, 0x6400, 0x2488, 0x4202, 0x92FE, 0x0000, 0x9000, 0x0000], [1, 2, 3, 4, 5, 5, 6, 6]) := by
  decide

/-- Symbols above their definitions in ORIG, TAB and EQU (35_assembler.md R117), an EQU as the displacement of BR
(log 49), and characters under the two encodings (R114, R129). -/
theorem test_assemble_symbols :
    (assemble asm
        [dir (.orig (sym "Base")), dir (.tab "T" (sym "N")), dir (.word "W" (sym "T")),
          line (.br none (sym "N")), dir (.opt .unicode), dir (.word "U" (.char 'É')), dir (.opt .ascii),
          dir (.word "V" (.char 'É')), line (.mvi .r1 (.char 'A')), dir (.equ "N" (.const 2)),
          dir (.equ "Base" (sym "Far")), dir (.equ "Far" (.const 0x0040))]).toOption.map
        (fun p => (p.program, p.data, p.reserved)) =
      some ([(0x0043, 0x9002), (0x0044, 0x0000), (0x0047, 0x6241)],
        [(0x0042, 0x0040), (0x0045, 0x00C9), (0x0046, 0x0090)], [0x0040, 0x0041]) := by
  decide

/-- Lines in error, each with its number (35_assembler.md R131, R136): a label with a leading digit, one with a point, a
constant out of range, a symbol defined twice, an undefined one, one defined through itself, a position taken twice, a
relative jump out of reach. -/
theorem test_assemble_errors :
    errorsOf [named "1a" (.plain .nop), named "A.b" (.plain .nop), line (.plain (.mvi .r1 0x100)), line (.int (.const 256)),
        dir (.equ "X" (.const 1)), dir (.word "X" (.const 1)), line (.mvi .r1 (sym "Y")), dir (.equ "Z" (sym "Z"))] =
      [(1, .badSymbol), (2, .badSymbol), (3, .constantRange), (4, .constantRange), (6, .duplicateSymbol),
        (7, .undefinedSymbol), (8, .noValue)] ∧
    errorsOf [line (.plain .nop), dir (.orig (.const (-32768))), line (.plain .nop)] = [(3, .overlap)] ∧
    errorsOf [line (.br none (sym "L")), dir (.orig (.const 128)), named "L" (.plain .nop)] = [(1, .outOfReach)] ∧
    errorsOf [dir (.tab "T" (.const (-1)))] = [(1, .constantRange)] := by
  decide

/-- V156, V158, V159, and the bounds of the single instruction. -/
theorem test_wide_mvi :
    expandMvi .highFirst .r1 0x1234 = [.mvih .r1 0x12, .mvil .r1 0x34] ∧
    expandMvi .highFirst .r1 256 = [.mvih .r1 0x01, .mvil .r1 0x00] ∧
    expandMvi .highFirst .r1 (-129) = [.mvih .r1 0xFF, .mvil .r1 0x7F] ∧
    expandMvi .highFirst .r1 255 = [.mvi .r1 0x0FF] ∧ expandMvi .highFirst .r1 (-128) = [.mvi .r1 0x180] := by
  decide

/-! ## Witnesses: a concrete state and operands that meet the hypotheses of each statement -/

theorem witness_EncodeThenDecode :
    (Instr.mvi .r1 0x180).wellFormed = true ∧ (Instr.mvi .r1 0x0FF).wellFormed = true ∧
    decode (Word.octets (encode (.mvi .r1 0x180)) ++ [0x05]) = .ok (.mvi .r1 0x180, [0x05]) := by
  decide

theorem witness_DecodeThenEncode : decodeWord 0xB001 = .ok (.jal .r1) ∧ encode (.jal .r1) = 0xB001 := by decide

/-- No instruction has the major opcode Ch, and a step can fetch such a word. -/
theorem witness_ReservedWordRefused :
    Config.Encoding.pe1.legal ∧ (∀ i : Instr, i.wellFormed = true → encodeBy .pe1 i ≠ some 0xC000) ∧
    State.reset.params.encoding = .pe1 ∧ (State.reset.placeAtPc 0xC000).deliver.accepted = none ∧
    (State.reset.placeAtPc 0xC000).deliver.fetchWord = some 0xC000 := by
  refine ⟨trivial, fun i hi h => ?_, rfl, by decide, by decide⟩
  simp only [encodeBy, hi, if_true, Option.some.injEq] at h
  have hm : field (encode i) 12 4 = 0xC := by rw [h]; decide
  cases i <;>
    simp [encode, encodeZ_fields, encodeK_fields, encodeR3_fields, encodeR2_fields, encodeR1_fields, encodeT_fields,
      encodeI9_fields, encodeI8_fields, encodeB_fields, encodeJ_fields] at hm

theorem witness_StepRunsDecoded :
    (State.reset.withFetchWord 16 0x2298).deliver.accepted = none ∧
    (State.reset.withFetchWord 16 0x2298).deliver.fetchWord = some 0x2298 ∧
    decodeBy State.reset.params.encoding 0x2298 = .ok (.add .r1 .r2 .r3) ∧ State.reset.inputs = [] ∧
    State.reset.params.encoding.legal := by
  exact ⟨by decide, by decide, by decide, by decide, trivial⟩

theorem witness_PlacedInstructionRuns :
    (Instr.add .r1 .r2 .r3).wellFormed = true ∧ State.reset.inputs = [] ∧ State.reset.accepted = none ∧
    State.reset.params.encoding.legal ∧ State.reset.params.encoding = .pe1 := by
  exact ⟨by decide, by decide, by decide, trivial, rfl⟩

/-- Each of the three refusals of a step. -/
theorem witness_StepStopsOnlyWhere :
    refusalOf (step State.reset) = some .unloadedProgram ∧
    refusalOf (step (State.reset.withFetchWord 16 0x6300)) = some (.reservedWord .reservedConstant) ∧
    refusalOf (step ({ State.reset with ds := some 5 }.withFetchWord 16 0x9000)) = some .controlInDelaySlot := by
  decide

/-- A control instruction with and without a delayed target pending, and another instruction with one. -/
theorem witness_EveryInstructionCompletes :
    (isControl (.br 0) = true ∧ ({ State.reset with ds := some 5 } : State).ds ≠ none) ∧
    ¬(isControl (.br 0) = true ∧ State.reset.ds ≠ none) ∧
    ¬(isControl .nop = true ∧ ({ State.reset with ds := some 5 } : State).ds ≠ none) := by
  decide

theorem witness_DelaySlot :
    isControl .nop = false ∧ ({ State.reset with ds := some 0xFFFF } : State).ds = some 0xFFFF ∧
    State.reset.ds = none ∧ (after .nop { State.reset with pc := 0xFFFF } (·.pc)) = some 0 := by
  decide

theorem witness_ResetValues : State.reset ∈ [State.reset, State.reset.hostReset] := by simp

theorem witness_CompareFlags :
    (given 0x8000 1 0).params.subCarry = .carryOut ∧
    after (.cmp .r1 .r2) (given 0x8000 1 0) (fun t => (t.re.z, t.re.c, t.re.n ^^ t.re.o)) =
      some (false, true, true) := by
  decide

theorem witness_WideArithmetic :
    Reg.r1 ≠ .r0 ∧ Reg.r4 ≠ .r0 ∧ Reg.r1 ≠ .r4 ∧ Reg.r5 ≠ .r1 ∧ Reg.r6 ≠ .r1 ∧
    State.reset.params.subCarry = .carryOut := by
  decide

/-- Both settings of SHRA_FILL. -/
theorem witness_ArithmeticShifts :
    State.reset.params.shraFill = .zero ∧ (otherSettings State.reset).params.shraFill = .sign := by
  decide

theorem witness_RotateThroughCarry : Reg.r2 ≠ .r0 ∧ Reg.r1 ≠ .r0 ∧ Reg.r2 ≠ .r1 := by decide

/-- Flags under which a condition holds. -/
def flagsFor : Cond → Flags
  | .z => { Flags.clear with z := true }
  | .n => { Flags.clear with n := true }
  | .np => { Flags.clear with z := true }
  | .c => { Flags.clear with c := true }
  | .o => { Flags.clear with o := true }
  | .nz | .nn | .p | .nc | .no => Flags.clear

/-- Flags under which a condition does not hold. -/
def flagsAgainst : Cond → Flags
  | .nz => { Flags.clear with z := true }
  | .nn => { Flags.clear with n := true }
  | .p => { Flags.clear with n := true }
  | .nc => { Flags.clear with c := true }
  | .no => { Flags.clear with o := true }
  | .z | .n | .np | .c | .o => Flags.clear

/-- Every condition holds in some state and fails in another. -/
theorem witness_conditions (k : Cond) : holds k (flagsFor k) ∧ ¬holds k (flagsAgainst k) := by
  cases k <;> simp [holds, flagsFor, flagsAgainst, Flags.clear]

theorem witness_RelativeJumps :
    State.reset.ds = none ∧ holds .z (State.reset.setRe (flagsFor .z)).re ∧ ¬holds .z State.reset.re := by
  simp [State.reset, State.setRe, flagsFor, holds, Flags.clear]

theorem witness_AbsoluteJumps :
    State.reset.ds = none ∧ holds .p State.reset.re ∧ ¬holds .p (State.reset.setRe (flagsAgainst .p)).re := by
  simp [State.reset, State.setRe, flagsAgainst, holds, Flags.clear]

theorem witness_Calls :
    State.reset.ds = none ∧ holds .no State.reset.re ∧ ¬holds .no (State.reset.setRe (flagsAgainst .no)).re := by
  simp [State.reset, State.setRe, flagsAgainst, holds, Flags.clear]

/-- INT with no slot, as by default, and with one. -/
theorem witness_SoftwareInterrupt :
    (given 0 0 0).ds = none ∧ Config.ControlKind.int ∉ (given 0 0 0).params.delaySlotSet ∧
    (otherControl (given 0 0 0)).ds = none ∧ Config.ControlKind.int ∈ (otherControl (given 0 0 0)).params.delaySlotSet := by
  decide

theorem witness_ReturnFromInterrupt :
    ({ given 0 0 0 with pcE := 0x0013, reE := { Flags.clear with e := true } } : State).ds = none ∧
    Config.ControlKind.rti ∉ (given 0 0 0).params.delaySlotSet := by
  decide

/-- The ends of the range. -/
theorem witness_Constants :
    ((-128 : Int) ≤ -128 ∧ (-128 : Int) ≤ 255) ∧ (-128 : Int) ≤ 255 ∧ (255 : Int) ≤ 255 := by
  decide

/-- The ends of the range. -/
theorem witness_WideConstant :
    ((-32768 : Int) ≤ -32768 ∧ (-32768 : Int) ≤ 65535) ∧ ((-32768 : Int) ≤ 65535 ∧ (65535 : Int) ≤ 65535) ∧
    Reg.r1 ≠ .r0 := by
  decide

/-- The lowest address and the last below the window. -/
theorem witness_LoadFromMemory :
    ((given 0 0 0).reg .r1).toNat < 0xFF00 ∧ ((given 0xFEFF 0 0).reg .r1).toNat < 0xFF00 := by
  decide

/-- The lowest address and the last below the window, and octets that are not stored to. -/
theorem witness_StoreToMemory :
    ((given 0 0x1234 0).reg .r1).toNat < 0xFF00 ∧ ((given 0xFEFF 0x1234 0).reg .r1).toNat < 0xFF00 ∧
    (65535 : Nat) ≠ 2 * position 0xFEFF ∧ (65535 : Nat) ≠ 2 * position 0xFEFF + 1 := by
  decide

/-- The first and the last address of the window, for both instructions. -/
theorem witness_WindowSparesMemory :
    0xFF00 ≤ ((given 0xFF00 7 0).reg .r1).toNat ∧ 0xFF00 ≤ ((given 0xFFFF 7 0).reg .r1).toNat ∧
    (Instr.stor .r1 .r2 = .stor .r1 .r2 ∨ Instr.stor .r1 .r2 = .load .r2 .r1) ∧
    (Instr.load .r2 .r1 = .stor .r1 .r2 ∨ Instr.load .r2 .r1 = .load .r2 .r1) := by
  decide

/-- Each clause: 8000h; FE00h and 7E00h; two addresses of one position, and of two. -/
theorem witness_LoadsAndStoresMeet :
    (given 0x8000 0x1234 0).reg .r1 = 0x8000 ∧
    ((given 0xFE00 0x7E00 0).reg .r1 = 0xFE00 ∧ (given 0xFE00 0x7E00 0).reg .r2 = 0x7E00) ∧
    (let s := given 0x0010 7 0x8010
     (s.reg .r1).toNat < 0xFF00 ∧ (s.reg .r3).toNat < 0xFF00 ∧ Reg.r4 ≠ .r0 ∧
     (s.reg .r3).toNat % 32768 = (s.reg .r1).toNat % 32768) ∧
    (let s := given 0xFEFF 7 0
     (s.reg .r1).toNat < 0xFF00 ∧ (s.reg .r3).toNat < 0xFF00 ∧
     (s.reg .r3).toNat % 32768 ≠ (s.reg .r1).toNat % 32768) := by
  decide

/-- NOP writes no status bit, INC writes all but E. -/
theorem witness_FlagsLines :
    (∃ t, exec .nop State.reset = .next t) ∧ (∃ t, exec (.inc .r1) State.reset = .next t) ∧
    flagLine .nop = Flags.clear ∧ (flagLine (.inc .r1)).e = false ∧ readsFlags (.inc .r1) = false ∧
    (flagLine (.inc .r1)).z = true := by
  exact ⟨⟨_, rfl⟩, ⟨_, rfl⟩, rfl, rfl, rfl, rfl⟩

/-- A register that is neither read nor written, and one that is written only. -/
theorem witness_RegistersReadAndWritten :
    writtenReg (.mov .r1 .r2) ≠ some .r3 ∧
    (∃ t, exec (.mov .r1 .r2) State.reset = .next t) ∧ Reg.r3 ∉ readRegs (.mov .r1 .r2) ∧
    Reg.r1 ∉ readRegs (.mov .r1 .r2) ∧ writtenReg (.mov .r1 .r2) = some .r1 ∧
    ∀ k r, Instr.mov .r1 .r2 ≠ jalWhen k r := by
  exact ⟨by decide, ⟨_, rfl⟩, by decide, by decide, by decide, fun k r => by cases k <;> simp [jalWhen]⟩

/-- ADD is no LOAD, no STOR and no INT, and completes. -/
theorem witness_SpecialStateFrame :
    (∃ t, exec (.add .r1 .r2 .r3) State.reset = .next t) ∧ ¬isLoad (.add .r1 .r2 .r3) ∧
    ¬isStor (.add .r1 .r2 .r3) ∧ ∀ k, Instr.add .r1 .r2 .r3 ≠ .int k := by
  exact ⟨⟨_, rfl⟩, by simp [isLoad], by simp [isStor], by simp⟩

/-- A STOR at the address of a loaded instruction is executed. -/
theorem witness_ProgramMemoryFixed : ∃ t, step (State.reset.withFetchWord 16 0x5000) = .next t := ⟨_, rfl⟩

/-- ENI, an entry and a Reset change E. -/
theorem witness_EnableChanges :
    let on : State := State.reset.setRe { Flags.clear with e := true }
    (nextOf (step (State.reset.withFetchWord 16 0x0001))).map (·.re.e) = some true ∧
    (nextOf (step { on with ip := 1, im := 1 })).map (·.re.e) = some false ∧
    (nextOf (step ({ on with inputs := [[.reset]] }.withFetchWord 16 0x0000))).map (·.re.e) = some false := by
  decide

/-- Every quiet port, with its value. -/
theorem witness_QuietPortReads :
    let s := State.reset
    (0xFFFD, 0) ∈ quietReads s ∧ (0xFFFA, 0) ∈ quietReads s ∧ (0xFFF9, 0) ∈ quietReads s ∧
    (0xFFF7, 0) ∈ quietReads s ∧ (0xFFF6, 0) ∈ quietReads s ∧ (0xFFEB, 0) ∈ quietReads s ∧ (0xFFEC, 0) ∈ quietReads s ∧
    (0xFFED, 0) ∈ quietReads s ∧ ((given 0xFFED 0 0).reg .r1, (0 : Word)) ∈ quietReads (given 0xFFED 0 0) := by
  simp [quietReads, State.reset, Devices.initial, bitAt0, given, State.reg]

theorem witness_LastKeyRead :
    ((given 0xFFFF 0 0).applyEvent (.key 0x41)).reg .r1 = 0xFFFF ∧ Reg.r2 ≠ .r1 ∧ Reg.r2 ≠ .r0 := by
  decide

theorem witness_MaskPort : (given 0xFFFA 0x8000 0).reg .r1 = 0xFFFA ∧ Reg.r3 ≠ .r0 := by decide

/-- Every output port of the statement. -/
theorem witness_OutputPorts :
    (given 0xFFF8 1 0).reg .r1 = 0xFFF8 ∧ (given 0xFFF7 1 0).reg .r1 = 0xFFF7 ∧ (given 0xFFF6 1 0).reg .r1 = 0xFFF6 ∧
    (given 0xFFFB 1 0).reg .r1 = 0xFFFB ∧ (given 0xFFF0 1 0).reg .r1 = 0xFFF0 ∧ (given 0xFFF1 1 0).reg .r1 = 0xFFF1 ∧
    (given 0xFFF2 1 0).reg .r1 = 0xFFF2 ∧ (given 0xFFF3 1 0).reg .r1 = 0xFFF3 ∧ (given 0xFFEE 1 0).reg .r1 = 0xFFEE ∧
    (given 0xFFEF 1 0).reg .r1 = 0xFFEF ∧ (given 0xFFF4 1 0).reg .r1 = 0xFFF4 :=
  ⟨rfl, rfl, rfl, rfl, rfl, rfl, rfl, rfl, rfl, rfl, rfl⟩

/-- The state with the terminal's cursor at a row and column. -/
def cursorAt (s : State) (row col : Nat) : State :=
  s.setDev { s.dev with term := { s.dev.term with cursor := .at row col } }

/-- The first and the last cell, and another cell. -/
theorem witness_TerminalCharacter :
    let s := given 0xFFFE 0x41 0
    (s.reg .r1 = 0xFFFE ∧ s.dev.term.cursor = .at 0 0 ∧ 0 < 45 ∧ 0 < 80) ∧
    ((cursorAt s 44 79).reg .r1 = 0xFFFE ∧ (cursorAt s 44 79).dev.term.cursor = .at 44 79 ∧ 44 < 45 ∧ 79 < 80) ∧
    (44, 78) ≠ (44, 79) := by
  decide

/-- The last legal position, and the first illegal row and column. -/
theorem witness_TerminalCursorPort :
    let ok (v : Word) : Prop := v.toNat / 256 ≤ 44 ∧ v.toNat % 256 ≤ 79
    (given 0xFFFC 0x2C4F 0).reg .r1 = 0xFFFC ∧ ok ((given 0xFFFC 0x2C4F 0).reg .r2) ∧
    ¬ok ((given 0xFFFC 0x2D00 0).reg .r2) ∧ ¬ok ((given 0xFFFC 0x0050 0).reg .r2) := by
  decide

/-- The first and the last cell. -/
theorem witness_LcdCharacter :
    let s := given 0xFFF5 0x41 0
    let last := s.setDev { s.dev with lcd := { s.dev.lcd with line := 1, col := 15 } }
    (s.reg .r1 = 0xFFF5 ∧ s.dev.lcd.line < 2 ∧ s.dev.lcd.col < 16) ∧
    (last.reg .r1 = 0xFFF5 ∧ last.dev.lcd.line < 2 ∧ last.dev.lcd.col < 16) := by
  decide

/-- The ends of the undescribed ranges, and the single addresses. -/
theorem witness_UndescribedPorts :
    undescribedRead 0xFF00 ∧ undescribedRead 0xFFEA ∧ undescribedRead 0xFFEE ∧ undescribedRead 0xFFF5 ∧
    undescribedRead 0xFFF8 ∧ undescribedRead 0xFFFB ∧ undescribedRead 0xFFFC ∧ undescribedRead 0xFFFE ∧
    undescribedWrite 0xFF00 ∧ undescribedWrite 0xFFED ∧ undescribedWrite 0xFFF9 ∧ undescribedWrite 0xFFFD ∧
    undescribedWrite 0xFFFF ∧ (given 0xFFFF 0 0).reg .r1 = 0xFFFF := by
  simp [undescribedRead, undescribedWrite, given, State.reg]

/-- A step that completes and one that is refused. -/
theorem witness_OutputsInvisible :
    (∃ t, step (State.reset.withFetchWord 16 0x0000) = .next t) ∧ step State.reset = .refused .unloadedProgram := by
  exact ⟨⟨_, rfl⟩, rfl⟩

/-- One request takeable; a delayed target pending; E = 0; no request. -/
theorem witness_Acceptance :
    let s : State := { State.reset.setRe { Flags.clear with e := true } with im := 0x8001, ip := 0x8000 }
    s.accepted = some 15 ∧ ({ s with ds := some 0 } : State).accepted = none ∧
    (s.setRe Flags.clear).accepted = none ∧ ({ s with ip := 0 } : State).accepted = none := by
  decide

/-- The lowest and the highest vector. -/
theorem witness_HardwareEntry :
    let s : State := State.reset.setRe { Flags.clear with e := true }
    ({ s with im := 1, inputs := [[.button .key0]] } : State).deliver.accepted = some 0 ∧
    ({ s with im := 0x8000, ip := 0x8000 } : State).deliver.accepted = some 15 := by
  decide

/-- An entry of either kind, and a state whose shadow registers are those that the entry left. -/
theorem witness_ReturnResumes :
    let s : State := { State.reset.setRe { Flags.clear with e := true } with im := 1, ip := 1 }
    s.deliver.accepted = some 0 ∧ (∃ t, step s = .next t) ∧ (∃ t, exec (.int 5) State.reset = .next t) ∧
    (s.takeInterrupt 0).ds = none ∧ (s.takeInterrupt 0).params = s.params ∧ inPc s s.pc = s.pc ∧
    (let o := otherControl s; inPc o o.pc = o.pc ∧ Config.ControlKind.rti ∈ o.params.delaySlotSet) := by
  exact ⟨by decide, ⟨_, rfl⟩, ⟨_, rfl⟩, rfl, rfl, rfl, by decide, by decide⟩

theorem witness_HandlerAddresses :
    0 < 16 ∧ 15 < 16 ∧ 0 ≠ 15 ∧ (given 0 0 0).ds = none ∧
    ({ State.reset.setRe { Flags.clear with e := true } with im := 0x8000, ip := 0x8000 } : State).deliver.accepted =
      some 15 := by
  decide

/-- Both policies, the highest vector, and another one. -/
theorem witness_RequestPolicy :
    15 < 16 ∧ 0 ≠ 15 ∧ State.reset.params.irqPolicy = .latch ∧
    ({ State.reset with params := { Config.Params.default with irqPolicy := .drop } } : State).params.irqPolicy =
      .drop := by
  decide

/-- The timer stopped; one tick before the duration; at it. -/
theorem witness_TimerTick :
    let timed (elapsed : Nat) : State :=
      State.reset.setDev { Devices.initial with timer := { run := true, duration := 3, elapsed := elapsed } }
    State.reset.dev.timer.run = false ∧ (timed 1).dev.timer.run = true ∧
    (timed 1).dev.timer.elapsed + 1 < (timed 1).dev.timer.duration.toNat ∧
    (timed 2).dev.timer.duration.toNat ≤ (timed 2).dev.timer.elapsed + 1 := by
  decide

theorem witness_RegisterFile : (.mvi · 5) ∈ withDestination .r1 .r2 5 := by simp [withDestination]

/-- A running simulator before a breakpoint, one that has stopped there, one with none, and a stopped one. -/
theorem witness_Breakpoints :
    let m := simulator [0]
    m.running = true ∧ position m.deliverNow.machine.pc ∈ m.breakpoints ∧ m.deliverNow.passed = false ∧
    ({ m with passed := true } : Sim).deliverNow.passed = true ∧ position m.machine.pc ∉ (simulator [1]).breakpoints ∧
    m.machine.inputs = [] ∧ m.stop.running = false ∧ ∃ t, step m.machine = .next t := by
  exact ⟨rfl, by decide, rfl, rfl, by decide, rfl, rfl, _, rfl⟩

theorem witness_HostEvents :
    ((Button.select, 6) ∈ [(Button.key0, 0), (Button.key1, 1), (Button.right, 2), (Button.up, 3), (Button.down, 4),
      (Button.left, 5), (Button.select, 6)]) ∧
    ({ State.reset with inputs := [[.tick, .reset], [.tick]] } : State).inputs = [.tick, .reset] :: [[.tick]] := by
  decide

/-- A state that meets the invariant, with a step. -/
theorem witness_StepKeepsInvariant :
    (State.reset.withFetchWord 16 0x0000).Inv ∧ ∃ t, step (State.reset.withFetchWord 16 0x0000) = .next t := by
  refine ⟨⟨by decide, by decide, ⟨by decide, fun row col h => ?_⟩, ⟨by decide, by decide, by decide⟩, rfl, rfl⟩, _, rfl⟩
  cases h
  exact ⟨by decide, by decide⟩

theorem witness_UnwiredVectorsStayClear :
    noUnwiredRequest (State.reset.withFetchWord 16 0x0000) ∧
    (∃ t, step (State.reset.withFetchWord 16 0x0000) = .next t) ∧
    ({ State.reset.setRe { Flags.clear with e := true } with im := 0x8000, ip := 0x8000 } : State).deliver.accepted =
      some 15 := by
  refine ⟨fun v _ _ => ?_, ⟨_, rfl⟩, by decide⟩
  show (0 : Word).getLsbD v = false
  simp

end Sys2Proof.Tests
end

section
/-! The register file and the status bits, over all instructions (10_state.md R22, R23, R30): what an instruction reads of
them, what it writes, and what it leaves alone, said once for every instruction by `exec_confined`. -/

namespace Sys2Proof.Proofs.RegistersAndFlags
open Machine Claims

/-! ### Another register file and other status bits under the same machine -/

/-- The state with another register file and other status bits. -/
def withFile (s : State) (g : Regs) (f : Flags) : State := { s with regs := g, re := f }

theorem advance_withFile (s : State) (g : Regs) (f : Flags) : (withFile s g f).advance = withFile s.advance g f := rfl

theorem goTo_withFile (s : State) (g : Regs) (f : Flags) (slot : Bool) (a : Word) :
    (withFile s g f).goTo slot a = withFile (s.goTo slot a) g f := by cases slot <;> rfl

/-- SHRA_FILL is a parameter of the machine. -/
theorem shraFill_withFile (s : State) (g : Regs) (f : Flags) (v : Word) :
    (withFile s g f).shraFill v = s.shraFill v := rfl

/-- A read of the data space sees neither registers nor status bits, and leaves them. -/
theorem memRead_withFile (s : State) (g : Regs) (f : Flags) (a : Word) :
    (withFile s g f).memRead a = ((s.memRead a).1, withFile (s.memRead a).2 g f) := by
  unfold State.memRead
  split
  · unfold State.portRead
    cases portAt a <;> rfl
  · rfl

/-- A write of the data space sees neither registers nor status bits, and leaves them. -/
theorem memWrite_withFile (s : State) (g : Regs) (f : Flags) (a v : Word) :
    (withFile s g f).memWrite a v = withFile (s.memWrite a v) g f := by
  unfold State.memWrite
  split
  · unfold State.portWrite
    cases portAt a <;> rfl
  · rfl

/-! ### Register files -/

theorem set_set_same (g : Regs) (d : Reg) (v w : Word) : (g.set d v).set d w = g.set d w := by cases d <;> rfl

theorem set_comm {d q : Reg} (h : q ≠ d) (g : Regs) (v w : Word) :
    (g.set q v).set d w = (g.set d w).set q v := by
  cases q <;> cases d <;> simp_all [Regs.set]

/-- The value a register holds after `w` was written to it, written to it again: R0 takes neither. -/
theorem set_reg_withFile_set (g g' : Regs) (d : Reg) (w : Word) (s : State) (f : Flags) :
    g'.set d ((withFile s (g.set d w) f).reg d) = g'.set d w := by cases d <;> rfl

/-! ### Status bits -/

/-- The bits of `new` where `line` is true, those of `old` elsewhere. -/
def mergeFlags (line new old : Flags) : Flags :=
  { e := cond line.e new.e old.e
    z := cond line.z new.z old.z
    c := cond line.c new.c old.c
    n := cond line.n new.n old.n
    o := cond line.o new.o old.o }

theorem mergeFlags_merged (line new old old' : Flags) :
    mergeFlags line (mergeFlags line new old) old' = mergeFlags line new old' := by
  obtain ⟨e, z, c, n, o⟩ := line
  cases e <;> cases z <;> cases c <;> cases n <;> cases o <;> rfl

theorem mergeFlags_unlisted (line new old : Flags) :
    (line.e = false → (mergeFlags line new old).e = old.e) ∧ (line.z = false → (mergeFlags line new old).z = old.z) ∧
    (line.c = false → (mergeFlags line new old).c = old.c) ∧ (line.n = false → (mergeFlags line new old).n = old.n) ∧
    (line.o = false → (mergeFlags line new old).o = old.o) := by
  simp +contextual [mergeFlags]

theorem mergeFlags_listed (line new old : Flags) :
    (line.e = true → (mergeFlags line new old).e = new.e) ∧ (line.z = true → (mergeFlags line new old).z = new.z) ∧
    (line.c = true → (mergeFlags line new old).c = new.c) ∧ (line.n = true → (mergeFlags line new old).n = new.n) ∧
    (line.o = true → (mergeFlags line new old).o = new.o) := by
  simp +contextual [mergeFlags]

/-! ### What an instruction reads and writes -/

/-- A register file and status bits that hold what `s` holds wherever `i` reads. -/
structure Agrees (i : Instr) (s : State) (g : Regs) (f : Flags) : Prop where
  reads : ∀ q ∈ readRegs i, (withFile s g f).reg q = s.reg q
  flags : readsFlags i = true → f = s.re

/-- `d` is the register `i` writes, or R0, the write to which has no effect, where `i` may write none: that is where
the table names none, and for JAL.cond. -/
def Destination (i : Instr) (d : Reg) : Prop :=
  writtenReg i = some d ∨ d = .r0 ∧ (writtenReg i = none ∨ ∃ k r, i = jalWhen k r)

/-- From `s`, `i` goes to `t`, and from any registers and status bits that agree on what it reads to the same: one
register and the bits of its "Flags:" line receive what they hold in `t`, the others are kept. -/
def Confined (i : Instr) (s t : State) : Prop :=
  ∃ d, Destination i d ∧ ∀ g f, Agrees i s g f →
    exec i (withFile s g f) = .next (withFile t (g.set d (t.reg d)) (mergeFlags (flagLine i) t.re f))

theorem Destination.of_written {i : Instr} {d : Reg} (h : writtenReg i = some d) : Destination i d := .inl h

theorem Destination.r0_of_none {i : Instr} (h : writtenReg i = none) : Destination i .r0 := .inr ⟨rfl, .inl h⟩

theorem Destination.r0_of_jalWhen {i : Instr} (k : Cond) (r : Reg) (h : i = jalWhen k r) : Destination i .r0 :=
  .inr ⟨rfl, .inr ⟨k, r, h⟩⟩

theorem agrees_self (i : Instr) (s : State) : Agrees i s s.regs s.re := ⟨fun _ _ => rfl, fun _ => rfl⟩

/-- It is enough to name the word written and the new bits. -/
theorem Confined.of_outcome {i : Instr} {s t base : State} {d : Reg} {w : Word} {new : Flags} (h : exec i s = .next t)
    (hd : Destination i d) (he : ∀ g f, Agrees i s g f →
      exec i (withFile s g f) = .next (withFile base (g.set d w) (mergeFlags (flagLine i) new f))) :
    Confined i s t := by
  have ht : t = withFile base (s.regs.set d w) (mergeFlags (flagLine i) new s.re) := by
    have := h.symm.trans (he _ _ (agrees_self i s))
    injection this
  refine ⟨d, hd, fun g f ha => (he g f ha).trans ?_⟩
  have hre : mergeFlags (flagLine i) t.re f = mergeFlags (flagLine i) new f := ht ▸ mergeFlags_merged ..
  have hreg : g.set d (t.reg d) = g.set d w := ht ▸ set_reg_withFile_set ..
  rw [hre, hreg, ht]
  rfl

/-! ### The shapes of the meanings -/

/-- An instruction that advances, writes one register and the status bits. -/
theorem Confined.of_result {i : Instr} {s t : State} {d : Reg} {val : State → Word} {new : State → Flags}
    (hi : ∀ s, exec i s = .next ((s.advance.setReg d (val s)).setRe (new s))) (hd : Destination i d)
    (h : exec i s = .next t) (hv : ∀ g f, Agrees i s g f →
      val (withFile s g f) = val s ∧ new (withFile s g f) = mergeFlags (flagLine i) (new s) f) : Confined i s t := by
  refine .of_outcome (base := s.advance) (w := val s) (new := new s) h hd fun g f ha => ?_
  obtain ⟨hval, hnew⟩ := hv g f ha
  rw [hi, hval, hnew]
  rfl

/-- A difference written to a register, with Z, N, O and C under SUB_CARRY. -/
theorem Confined.of_difference {i : Instr} {s t : State} {d : Reg} {q : State → Sum}
    (hi : ∀ s, exec i s = .next (s.advance.putDiff d (q s)))
    (hline : flagLine i = { e := false, z := true, c := true, n := true, o := true }) (hd : Destination i d)
    (h : exec i s = .next t) (hq : ∀ g f, Agrees i s g f → q (withFile s g f) = q s) : Confined i s t := by
  refine .of_result hi hd h fun g f ha => ?_
  rw [hq g f ha, hline]
  exact ⟨rfl, rfl⟩

/-- A jump, which may write a link: with no bit in its "Flags:" line, it goes to its target where `taken`, else on. -/
theorem Confined.of_jump {i : Instr} {s t : State} {d : Reg} {taken : State → Bool} {kind : Config.ControlKind}
    {target : State → Word}
    (hi : ∀ s, exec i s = s.control fun s' =>
      if taken s then (s'.setReg d s.link).goTo (s.hasSlot kind) (target s) else s')
    (hline : flagLine i = Flags.clear) (hd : Destination i d) (hr0 : taken s = false → Destination i .r0)
    (h : exec i s = .next t) (hv : ∀ g f, Agrees i s g f →
      taken (withFile s g f) = taken s ∧ target (withFile s g f) = target s) : Confined i s t := by
  obtain ⟨hds, -⟩ := State.control_next ((hi s).symm.trans h)
  have he (g f) (ha : Agrees i s g f) : exec i (withFile s g f) = .next (if taken s then
      withFile (s.advance.goTo (s.hasSlot kind) (target s)) (g.set d s.link) f else withFile s.advance g f) := by
    obtain ⟨htaken, htarget⟩ := hv g f ha
    rw [hi, State.control_of_none (s := withFile s g f) _ hds, htaken, htarget, advance_withFile]
    exact congrArg (fun u => Host.Outcome.next (if taken s then u else withFile s.advance g f))
      (goTo_withFile s.advance (g.set d s.link) f _ _)
  cases hc : taken s
  · exact .of_outcome (base := s.advance) (w := 0) (new := s.re) h (hr0 hc) fun g f ha => by
      rw [he g f ha, hc, hline]; rfl
  · exact .of_outcome (base := s.advance.goTo (s.hasSlot kind) (target s)) (w := s.link) (new := s.re) h hd
      fun g f ha => by rw [he g f ha, hc, hline]; rfl

/-- The facts of the tables about the ten JAL.cond, and their one meaning. -/
theorem jalWhen_table (k : Cond) (r : Reg) :
    (∀ s, exec (jalWhen k r) s = s.callIf k r) ∧ flagLine (jalWhen k r) = Flags.clear ∧
      writtenReg (jalWhen k r) = some .r7 ∧ readRegs (jalWhen k r) = [r] ∧ readsFlags (jalWhen k r) = true := by
  cases k <;> exact ⟨fun _ => rfl, rfl, rfl, rfl, rfl⟩

theorem callIf_confined (k : Cond) (r : Reg) {s t : State} (h : exec (jalWhen k r) s = .next t) :
    Confined (jalWhen k r) s t := by
  obtain ⟨hexec, hline, hwritten, hreads, hflags⟩ := jalWhen_table k r
  refine .of_jump hexec hline (.of_written hwritten) (fun _ => .r0_of_jalWhen k r rfl) h fun g f ⟨hr, hf⟩ => ?_
  obtain rfl : f = s.re := hf hflags
  exact ⟨rfl, hr r (by simp [hreads])⟩

theorem load_confined {d x : Reg} {s t : State} (h : exec (.load d x) s = .next t) : Confined (.load d x) s t := by
  refine .of_outcome (base := (s.advance.memRead (s.reg x)).2) (w := (s.advance.memRead (s.reg x)).1) (new := s.re) h
    (.of_written rfl) fun g f ha => ?_
  have hx : (withFile s g f).reg x = s.reg x := ha.reads x (by simp [readRegs])
  show Host.Outcome.next _ = _
  simp only [hx, advance_withFile, memRead_withFile]
  rfl

theorem stor_confined {x y : Reg} {s t : State} (h : exec (.stor x y) s = .next t) : Confined (.stor x y) s t := by
  refine .of_outcome (base := s.advance.memWrite (s.reg x) (s.reg y)) (d := .r0) (w := 0) (new := s.re) h
    (.r0_of_none rfl) fun g f ha => ?_
  have hx : (withFile s g f).reg x = s.reg x := ha.reads x (by simp [readRegs])
  have hy : (withFile s g f).reg y = s.reg y := ha.reads y (by simp [readRegs])
  show Host.Outcome.next _ = _
  rw [hx, hy, advance_withFile, memWrite_withFile]
  rfl

theorem rti_confined {s t : State} (h : exec .rti s = .next t) : Confined .rti s t := by
  have hrti (u : State) : exec .rti u = u.control State.leave := rfl
  obtain ⟨hds, -⟩ := State.control_next ((hrti s).symm.trans h)
  refine .of_outcome (base := s.advance.goTo (s.hasSlot .rti) s.pcE) (w := 0) (new := s.reE) h
    (.r0_of_none rfl) fun g f _ => ?_
  rw [hrti, State.control_of_none (s := withFile s g f) _ hds]
  exact congrArg Host.Outcome.next (goTo_withFile s.advance g s.reE _ _)

/-- INT saves the status bits, so it reads them all. -/
theorem int_confined {k : BitVec 8} {s t : State} (h : exec (.int k) s = .next t) : Confined (.int k) s t := by
  have hint (u : State) : exec (.int k) u = u.control fun u' =>
      u'.enter u'.pc (u.hasSlot .int) (intBase + k.setWidth 16) := rfl
  obtain ⟨hds, -⟩ := State.control_next ((hint s).symm.trans h)
  refine .of_outcome (base := s.advance.enter s.advance.pc (s.hasSlot .int) (intBase + k.setWidth 16)) (w := 0)
    (new := entryFlags s.freeCount) h (.r0_of_none rfl) fun g f ha => ?_
  obtain rfl : f = s.re := ha.flags rfl
  rw [hint, State.control_of_none (s := withFile s g s.re) _ hds]
  have hgo := goTo_withFile (s.advance.saveContext s.advance.pc) g (entryFlags s.freeCount)
    (s.hasSlot .int) (intBase + k.setWidth 16)
  simp only [State.enter_eq]
  refine congrArg Host.Outcome.next (hgo.trans ?_)
  cases s.hasSlot .int <;> rfl

/-! ### Every instruction -/

/-- Every instruction is confined to what the tables of R22 and R30 name, shape by shape of its meaning. -/
theorem exec_confined {i : Instr} {s t : State} (h : exec i s = .next t) : Confined i s t := by
  cases i with
  | add d x y | and d x y | or d x y | xor d x y =>
    refine .of_result (fun _ => rfl) (.of_written rfl) h fun g f ⟨hr, _⟩ => ?_
    rw [hr x (by simp [readRegs]), hr y (by simp [readRegs])]
    exact ⟨rfl, rfl⟩
  | addc d x y =>
    refine .of_result (fun _ => rfl) (.of_written rfl) h fun g f ⟨hr, hf⟩ => ?_
    obtain rfl : f = s.re := hf rfl
    rw [hr x (by simp [readRegs]), hr y (by simp [readRegs])]
    exact ⟨rfl, rfl⟩
  | inc d | com d | shr d | shl d | shla d | ror d | rol d =>
    refine .of_result (fun _ => rfl) (.of_written rfl) h fun g f ⟨hr, _⟩ => ?_
    rw [hr d (by simp [readRegs])]
    exact ⟨rfl, rfl⟩
  | sub d x y =>
    exact .of_difference (fun _ => rfl) rfl (.of_written rfl) h fun g f ⟨hr, _⟩ => by
      rw [hr x (by simp [readRegs]), hr y (by simp [readRegs])]
  | subb d x y =>
    exact .of_difference (fun _ => rfl) rfl (.of_written rfl) h fun g f ⟨hr, hf⟩ => by
      rw [hr x (by simp [readRegs]), hr y (by simp [readRegs]), hf rfl]; rfl
  | neg d | dec d =>
    exact .of_difference (fun _ => rfl) rfl (.of_written rfl) h fun g f ⟨hr, _⟩ => by rw [hr d (by simp [readRegs])]
  | shra d =>
    refine .of_result (fun _ => rfl) (.of_written rfl) h fun g f ⟨hr, _⟩ => ?_
    rw [hr d (by simp [readRegs]), shraFill_withFile]
    exact ⟨rfl, rfl⟩
  | rorc d | rolc d =>
    refine .of_result (fun _ => rfl) (.of_written rfl) h fun g f ⟨hr, hf⟩ => ?_
    obtain rfl : f = s.re := hf rfl
    rw [hr d (by simp [readRegs])]
    exact ⟨rfl, rfl⟩
  | cmp x y | test x y =>
    refine .of_result (d := .r0) (val := 0) (fun _ => rfl) (.r0_of_none rfl) h fun g f ⟨hr, _⟩ => ?_
    rw [hr x (by simp [readRegs]), hr y (by simp [readRegs])]
    exact ⟨rfl, rfl⟩
  | mov d x =>
    exact .of_result (new := State.re) (fun _ => rfl) (.of_written rfl) h fun g f ⟨hr, _⟩ =>
      ⟨hr x (by simp [readRegs]), rfl⟩
  | mvih d b | mvil d b =>
    exact .of_result (new := State.re) (fun _ => rfl) (.of_written rfl) h fun g f ⟨hr, _⟩ =>
      ⟨by rw [hr d (by simp [readRegs])], rfl⟩
  | mvi d c => exact .of_result (new := State.re) (fun _ => rfl) (.of_written rfl) h fun _ _ _ => ⟨rfl, rfl⟩
  | nop =>
    exact .of_result (d := .r0) (val := 0) (new := State.re) (fun _ => rfl) (.r0_of_none rfl) h fun _ _ _ => ⟨rfl, rfl⟩
  | eni | dsi | stc | clc =>
    exact .of_result (d := .r0) (val := 0) (fun _ => rfl) (.r0_of_none rfl) h fun _ _ _ => ⟨rfl, rfl⟩
  | cmc =>
    refine .of_result (d := .r0) (val := 0) (fun _ => rfl) (.r0_of_none rfl) h fun g f ⟨_, hf⟩ => ?_
    obtain rfl : f = s.re := hf rfl
    exact ⟨rfl, rfl⟩
  | load d x => exact load_confined h
  | stor x y => exact stor_confined h
  | int k => exact int_confined h
  | rti => exact rti_confined h
  | br d =>
    exact .of_jump (d := .r0) (taken := fun _ => true) (fun _ => rfl) rfl (.r0_of_none rfl) nofun h
      fun _ _ _ => ⟨rfl, rfl⟩
  | jmp r =>
    exact .of_jump (d := .r0) (taken := fun _ => true) (fun _ => rfl) rfl (.r0_of_none rfl) nofun h
      fun g f ⟨hr, _⟩ => ⟨rfl, hr r (by simp [readRegs])⟩
  | jal r =>
    exact .of_jump (taken := fun _ => true) (fun _ => rfl) rfl (.of_written rfl) nofun h
      fun g f ⟨hr, _⟩ => ⟨rfl, hr r (by simp [readRegs])⟩
  | brZ d | brNZ d | brN d | brNN d | brP d | brNP d | brC d | brNC d | brO d | brNO d =>
    refine .of_jump (d := .r0) (fun _ => rfl) rfl (.r0_of_none rfl) (fun _ => .r0_of_none rfl) h
      fun g f ⟨_, hf⟩ => ?_
    obtain rfl : f = s.re := hf rfl
    exact ⟨rfl, rfl⟩
  | jmpZ r | jmpNZ r | jmpN r | jmpNN r | jmpP r | jmpNP r | jmpC r | jmpNC r | jmpO r | jmpNO r =>
    refine .of_jump (d := .r0) (fun _ => rfl) rfl (.r0_of_none rfl) (fun _ => .r0_of_none rfl) h
      fun g f ⟨hr, hf⟩ => ?_
    obtain rfl : f = s.re := hf rfl
    exact ⟨rfl, hr r (by simp [readRegs])⟩
  | jalZ r => exact callIf_confined .z r h
  | jalNZ r => exact callIf_confined .nz r h
  | jalN r => exact callIf_confined .n r h
  | jalNN r => exact callIf_confined .nn r h
  | jalP r => exact callIf_confined .p r h
  | jalNP r => exact callIf_confined .np r h
  | jalC r => exact callIf_confined .c r h
  | jalNC r => exact callIf_confined .nc r h
  | jalO r => exact callIf_confined .o r h
  | jalNO r => exact callIf_confined .no r h

/-! ### What follows for registers and status bits -/

/-- What an instruction did, from its own state and from every other register file and status bits. -/
theorem exec_file {i : Instr} {s t : State} (h : exec i s = .next t) :
    ∃ d, Destination i d ∧ t.regs = s.regs.set d (t.reg d) ∧ t.re = mergeFlags (flagLine i) t.re s.re ∧
      ∀ g f, Agrees i s g f →
        exec i (withFile s g f) = .next (withFile t (g.set d (t.reg d)) (mergeFlags (flagLine i) t.re f)) := by
  obtain ⟨d, hd, he⟩ := exec_confined h
  have ht := h.symm.trans (he _ _ (agrees_self i s))
  injection ht with ht
  exact ⟨d, hd, congrArg State.regs ht, congrArg State.re ht, he⟩

/-- The status bits not in the "Flags:" line are kept. -/
theorem exec_re {i : Instr} {s t : State} (h : exec i s = .next t) : t.re = mergeFlags (flagLine i) t.re s.re := by
  obtain ⟨_, _, _, hre, _⟩ := exec_file h
  exact hre

/-- With other status bits an instruction that reads none does the same, and those it does not list stay as given. -/
theorem exec_setRe {i : Instr} {s t : State} (h : exec i s = .next t) (hi : readsFlags i = false) (f : Flags) :
    exec i (s.setRe f) = .next (t.setRe (mergeFlags (flagLine i) t.re f)) := by
  obtain ⟨d, -, hregs, -, he⟩ := exec_file h
  have hf := he s.regs f ⟨fun _ _ => rfl, fun hr => absurd (hi.symm.trans hr) nofun⟩
  rwa [← hregs] at hf

theorem Destination.ne_of_not_written {i : Instr} {d q : Reg} (hd : Destination i d) (hq : writtenReg i ≠ some q) :
    ¬(q = d ∧ d ≠ .r0) := by
  rintro ⟨rfl, h0⟩
  rcases hd with hd | ⟨hd, -⟩
  · exact hq hd
  · exact h0 hd

/-- Only of JAL.cond does the table name a register that may stay unwritten. -/
theorem Destination.eq_of_written {i : Instr} {d q : Reg} (hd : Destination i d) (hq : writtenReg i = some q)
    (hi : ∀ k r, i ≠ jalWhen k r) : q = d := by
  rcases hd with hd | ⟨-, hn | ⟨k, r, hk⟩⟩
  · exact Option.some.inj (hq.symm.trans hd)
  · exact absurd (hq.symm.trans hn) nofun
  · exact absurd hk (hi k r)

/-- Every register but the one written is kept. -/
theorem exec_reg {i : Instr} {s t : State} {q : Reg} (h : exec i s = .next t) (hq : writtenReg i ≠ some q) :
    t.reg q = s.reg q := by
  obtain ⟨d, hd, hregs, -, -⟩ := exec_file h
  calc t.reg q = (s.setReg d (t.reg d)).reg q := State.reg_congr hregs q
    _ = s.reg q := by rw [State.reg_setReg, if_neg (hd.ne_of_not_written hq)]

/-- Another value in a register that is not read stays there, unless that register is the one written. -/
theorem exec_setReg {i : Instr} {s t : State} {q : Reg} (h : exec i s = .next t) (hq : q ∉ readRegs i) (v : Word) :
    ∃ d, Destination i d ∧ exec i (s.setReg q v) = .next (if q = d then t else t.setReg q v) := by
  obtain ⟨d, hd, hregs, hre, he⟩ := exec_file h
  have hag : Agrees i s (s.regs.set q v) s.re :=
    ⟨fun r hr => State.reg_setReg_other s q r v fun e => hq (e ▸ hr), fun _ => rfl⟩
  refine ⟨d, hd, (he _ _ hag).trans (congrArg _ ?_)⟩
  rw [← hre]
  split
  · next hqd =>
    subst hqd
    rw [set_set_same, ← hregs]
    rfl
  · next hqd =>
    rw [set_comm hqd, ← hregs]
    rfl

end Sys2Proof.Proofs.RegistersAndFlags

namespace Sys2Proof.Proofs
open Machine Claims RegistersAndFlags

/-- Settles O36: `exec_re` says which bits are kept, `exec_setRe` what other status bits change. -/
theorem flagsLines : Obligations.FlagsLines := by
  unfold Obligations.FlagsLines
  intro i s t h
  refine ⟨?_, fun hi f => ⟨_, exec_setRe h hi f, rfl, mergeFlags_listed _ _ _⟩⟩
  rw [exec_re h]
  exact mergeFlags_unlisted _ _ _

theorem sameBut_setReg (q : Reg) (t : State) (v : Word) : sameBut q t (t.setReg q v) :=
  ⟨rfl, fun r hr => State.reg_setReg_other t q r v hr⟩

/-- Settles O37: a register not written is kept by `exec_reg`, and one not read is seen through `exec_setReg`. -/
theorem registersReadAndWritten : Obligations.RegistersReadAndWritten := by
  unfold Obligations.RegistersReadAndWritten
  intro i s t q h
  refine ⟨exec_reg h, fun hq v => ?_⟩
  obtain ⟨d, hd, hu⟩ := exec_setReg h hq v
  refine ⟨_, hu, ?_, fun hw hi => if_pos (hd.eq_of_written hw hi)⟩
  split
  · exact ⟨rfl, fun _ _ => rfl⟩
  · exact sameBut_setReg q t v

theorem reg_eq_zero_of_reset_regs {s : State} (h : s.regs = State.reset.regs) (r : Reg) : s.reg r = 0 := by
  rw [State.reg_congr h]
  cases r <;> rfl

/-- Settles O10: both resets leave the same register file, and R0 has no storage. -/
theorem registersZeroAfterReset : Obligations.RegistersZeroAfterReset := by
  unfold Obligations.RegistersZeroAfterReset
  intro s r
  exact ⟨reg_eq_zero_of_reset_regs rfl r, reg_eq_zero_of_reset_regs rfl r, State.reg_r0 s⟩

end Sys2Proof.Proofs
end

section
/-! Program memory (20_memory.md R61): no access to the data space, no change of control, no instruction, no interrupt
entry and no host event writes it. -/

namespace Sys2Proof.Proofs.ProgramMemory
open Machine

/-! ### The shared operations -/

theorem memRead_pmem (s : State) (a : Word) : (s.memRead a).2.pmem = s.pmem := by
  rcases s.memRead_cases a with h | h | h <;> simp [h]

/-- A write of the data space, in the window or below it, is none of program memory. -/
theorem memWrite_pmem (s : State) (a v : Word) : (s.memWrite a v).pmem = s.pmem := by
  rcases s.memWrite_cases a v with ⟨-, h⟩ | ⟨-, -, h⟩ | ⟨-, -, h⟩ <;> simp [h]

theorem takeInterrupt_pmem (s : State) (v : Nat) : (s.takeInterrupt v).pmem = s.pmem := by simp

theorem control_pmem {s t : State} {k : State → State} (h : s.control k = .next t)
    (hk : ∀ u : State, (k u).pmem = u.pmem) : t.pmem = s.pmem := by
  obtain ⟨-, rfl⟩ := State.control_next h
  simp [hk]

theorem branchIf_pmem {s t : State} {k : Cond} {d : BitVec 8} (h : s.branchIf k d = .next t) : t.pmem = s.pmem := by
  obtain ⟨-, rfl | rfl⟩ := State.branchIf_next h <;> simp

theorem jumpIf_pmem {s t : State} {k : Cond} {r : Reg} (h : s.jumpIf k r = .next t) : t.pmem = s.pmem := by
  obtain ⟨-, rfl | rfl⟩ := State.jumpIf_next h <;> simp

theorem callIf_pmem {s t : State} {k : Cond} {r : Reg} (h : s.callIf k r = .next t) : t.pmem = s.pmem := by
  obtain ⟨-, rfl | rfl⟩ := State.callIf_next h <;> simp

/-! ### Every instruction and every step -/

theorem exec_pmem {i : Instr} {s t : State} (h : exec i s = .next t) : t.pmem = s.pmem := by
  cases i with
  | nop | eni | dsi | stc | clc | cmc
  | add | addc | sub | subb | neg | inc | dec | cmp
  | and | or | xor | com | test
  | shr | shl | shra | shla | ror | rol | rorc | rolc
  | mov | mvi | mvih | mvil =>
    obtain rfl := Host.Outcome.next.inj h
    rfl
  | load d x =>
    obtain rfl := Host.Outcome.next.inj h
    exact memRead_pmem s.advance (s.reg x)
  | stor x y =>
    obtain rfl := Host.Outcome.next.inj h
    exact memWrite_pmem s.advance (s.reg x) (s.reg y)
  | br | jmp | jal | int | rti =>
    simp only [exec, execBr, execJmp, execJal, execInt, execRti] at h
    exact control_pmem h fun u => by simp
  | brZ | brNZ | brN | brNN | brP | brNP | brC | brNC | brO | brNO => exact branchIf_pmem h
  | jmpZ | jmpNZ | jmpN | jmpNN | jmpP | jmpNP | jmpC | jmpNC | jmpO | jmpNO => exact jumpIf_pmem h
  | jalZ | jalNZ | jalN | jalNN | jalP | jalNP | jalC | jalNC | jalO | jalNO => exact callIf_pmem h

theorem step_pmem {s t : State} (h : step s = .next t) : t.pmem = s.pmem := by
  rcases step_next h with ⟨v, -, rfl⟩ | ⟨-, _, _, -, -, he⟩
  · exact (takeInterrupt_pmem s.deliver v).trans s.deliver_pmem
  · exact (exec_pmem he).trans s.deliver_pmem

end Sys2Proof.Proofs.ProgramMemory

namespace Sys2Proof.Proofs
open Machine ProgramMemory

/-- Settles O39: `step_pmem` keeps program memory as it is held, so each octet and each word read from it. -/
theorem programMemoryFixed : Obligations.ProgramMemoryFixed := by
  unfold Obligations.ProgramMemoryFixed
  intro s t h
  rw [step_pmem h]
  exact ⟨fun _ => rfl, fun _ => rfl⟩

end Sys2Proof.Proofs
end

section
/-! The equivalences the assembler's page states (35_assembler.md R135). CMP and TEST are SUB and AND with R0 as the
destination, which takes no value (10_state.md R21), so that the flags alone are left; NEG is SUB with R0 as the
minuend, which reads as 0. -/

namespace Sys2Proof.Proofs.Equivalences
open Machine

/-! ### Results written to R0 -/

theorem putDiff_r0 (s : State) (q : Sum) : s.putDiff .r0 q = s.setArith q.r (s.subCarry q.c) q.o := by
  rw [State.putDiff_eq, State.setReg_r0]

theorem putLogic_r0 (s : State) (r : Word) : s.putLogic .r0 r = s.setLogic r := by
  rw [State.putLogic_eq, State.setReg_r0]

/-! ### The instructions -/

/-- CMP forms C in the state before pc advances and SUB in the one after: SUB_CARRY is the same in both. -/
theorem exec_cmp_eq_sub_r0 (s : State) (a b : Reg) : exec (.cmp a b) s = exec (.sub .r0 a b) s := by
  have hcarry (c : Bool) : s.advance.subCarry c = s.subCarry c := State.subCarry_congr s.advance_params c
  simp only [exec, execCmp, execSub, putDiff_r0, hcarry]

theorem exec_test_eq_and_r0 (s : State) (a b : Reg) : exec (.test a b) s = exec (.and .r0 a b) s := by
  simp only [exec, execTest, execAnd, putLogic_r0]

theorem exec_neg_eq_sub_from_r0 (s : State) (a : Reg) : exec (.neg a) s = exec (.sub a .r0 a) s := by
  simp only [exec, execNeg, execSub, State.reg_r0]

end Sys2Proof.Proofs.Equivalences

namespace Sys2Proof.Proofs
open Machine Equivalences

/-- Settles O17, an equivalence at a time. -/
theorem statedEquivalences : Obligations.StatedEquivalences := by
  unfold Obligations.StatedEquivalences
  intro s a b
  exact ⟨exec_cmp_eq_sub_r0 s a b, exec_test_eq_and_r0 s a b, exec_neg_eq_sub_from_r0 s a⟩

end Sys2Proof.Proofs
end

section
/-! The successor state in the vocabulary of the statements: pc after an instruction that writes no pc, and a register
and the status bits written over it (10_state.md R24, R28). -/

namespace Sys2Proof.Proofs.Successor
open Machine Claims

/-- The masked and the reduced form of an address in pc are one. -/
theorem fitPc_eq_inPc (s : State) (a : Word) : fitPc s.params.pcWidth a = inPc s a := by
  apply BitVec.eq_of_toNat_eq
  rw [fitPc_toNat, inPc]
  cases s.params.pcWidth with
  | bits15 => simp only [BitVec.toNat_ofNat]; omega
  | bits16 => rfl

theorem advance_pc_eq_nextPc (s : State) : s.advance.pc = nextPc s := by
  rw [State.advance_pc, fitPc_eq_inPc, nextPc]
  cases s.ds <;> rfl

theorem advance_eq (s : State) : s.advance = { s with pc := nextPc s, ds := none } := by
  rw [← advance_pc_eq_nextPc]
  rfl

theorem advance_setReg_setRe (s : State) (d : Reg) (r : Word) (f : Flags) :
    (s.advance.setReg d r).setRe f = writes s d r f := by
  rw [advance_eq]
  rfl

/-- A write to R0 takes no value: the status bits alone are left. -/
theorem writes_r0 (s : State) (r : Word) (f : Flags) : writes s .r0 r f = flagsOnly s f := rfl

end Sys2Proof.Proofs.Successor
end

section
/-! The arithmetic instructions (40_arithmetic.md R152 to R159). The adder is matched once with the bitwise formulas of
R150, its use on a complemented operand with the difference of R151; each instruction is then one of the two. -/

namespace Sys2Proof.Proofs.Arithmetic
open Machine Claims Successor

/-! ### The sign bit -/

theorem sign_eq (x : Word) : x.getLsbD 15 = decide (32768 ≤ x.toNat) := BitVec.getLsbD_last x

theorem sign_not (x : Word) : (~~~x).getLsbD 15 = !x.getLsbD 15 := by simp

theorem toInt_eq_sign (x : Word) : x.toInt = x.toNat - if 32768 ≤ x.toNat then 65536 else 0 := by
  rw [BitVec.toInt_eq_toNat_cond]
  split <;> split <;> omega

/-- Overflow by comparison: the operands are on the same side of 2^15, and the result on the other. -/
theorem overflows_iff (x y r : Word) :
    overflows x y r = true ↔
      (32768 ≤ x.toNat ↔ 32768 ≤ y.toNat) ∧ ¬(32768 ≤ r.toNat ↔ 32768 ≤ x.toNat) := by
  simp only [overflows, Bool.and_eq_true, beq_iff_eq, bne_iff_ne, ne_eq, sign_eq, decide_eq_decide]

/-- Overflow of a difference is that of the sum with the complement, which has the other sign. -/
theorem subOverflows_eq (x y r : Word) : subOverflows x y r = overflows x (~~~y) r := by
  rw [subOverflows, overflows, sign_not]
  cases x.getLsbD 15 <;> cases y.getLsbD 15 <;> rfl

/-! ### The adder -/

@[simp] theorem bit_false : bit false = 0 := rfl
@[simp] theorem bit_true : bit true = 1 := rfl
@[simp] theorem bitAt0_false : bitAt0 false = 0#16 := rfl
@[simp] theorem bitAt0_true : bitAt0 true = 1#16 := rfl

theorem bit_eq_toNat (b : Bool) : bit b = b.toNat := by cases b <;> rfl

theorem bitAt0_eq_ofNat (b : Bool) : bitAt0 b = BitVec.ofNat 16 b.toNat := by cases b <;> rfl

theorem addCore_r_eq (x y : Word) (cin : Bool) : (addCore x y cin).r = x + y + bitAt0 cin := by
  rw [addCore_r, bitAt0_eq_ofNat]

theorem addCore_c_eq (x y : Word) (cin : Bool) : (addCore x y cin).c = carries x y (bit cin) := by
  rw [Bool.eq_iff_iff, addCore_c, carries, decide_eq_true_eq, bit_eq_toNat]

/-- The exact sum is out of the signed range just where R150's bitwise formula says so. -/
theorem addCore_o_eq (x y : Word) (cin : Bool) :
    (addCore x y cin).o = overflows x y (x + y + bitAt0 cin) := by
  have hx := x.isLt
  have hy := y.isLt
  have hcin : cin.toNat ≤ 1 := Bool.toNat_le cin
  have hsum : (x + y + bitAt0 cin).toNat = (x.toNat + y.toNat + cin.toNat) % 65536 := by
    simp [bitAt0_eq_ofNat]
  rw [Bool.eq_iff_iff, addCore_o, overflows_iff, hsum, toInt_eq_sign, toInt_eq_sign]
  split <;> split <;> omega

theorem addCore_eq (x y : Word) (cin : Bool) :
    addCore x y cin =
      { r := x + y + bitAt0 cin, c := carries x y (bit cin), o := overflows x y (x + y + bitAt0 cin) } := by
  rw [← addCore_o_eq, ← addCore_c_eq, ← addCore_r_eq]

/-! ### The adder as a subtractor -/

/-- `~y` is `-y - 1`, so that the carry in decides whether 1 is taken off the difference. -/
theorem add_not_eq_sub (x y : Word) (cin : Bool) : x + ~~~y + bitAt0 cin = x - y - bitAt0 (!cin) := by
  cases cin <;> simp only [Bool.not_false, Bool.not_true, bitAt0_false, bitAt0_true] <;> bv_omega

/-- The sum with the complement carries just where the difference does not borrow. -/
theorem carries_not_eq_fits (x y : Word) (cin : Bool) : carries x (~~~y) (bit cin) = fits x y (bit (!cin)) := by
  have hy := y.isLt
  rw [carries, fits, BitVec.toNat_not, decide_eq_decide]
  cases cin <;> simp only [Bool.not_false, Bool.not_true, bit_false, bit_true] <;> omega

theorem subCore_eq (x y : Word) (cin : Bool) :
    subCore x y cin =
      { r := x - y - bitAt0 (!cin), c := fits x y (bit (!cin)), o := subOverflows x y (x - y - bitAt0 (!cin)) } := by
  rw [subCore, addCore_eq, add_not_eq_sub, carries_not_eq_fits, subOverflows_eq]

/-- With no carry in, the plain sum. -/
theorem addCore_false (x y : Word) :
    addCore x y false = { r := x + y, c := carries x y 0, o := overflows x y (x + y) } := by
  rw [addCore_eq, bitAt0_false, bit_false, BitVec.add_zero]

/-- With the carry in set, the plain difference. -/
theorem subCore_true (x y : Word) :
    subCore x y true = { r := x - y, c := fits x y 0, o := subOverflows x y (x - y) } := by
  rw [subCore_eq, Bool.not_true, bitAt0_false, bit_false, BitVec.sub_zero]

/-! ### One constant operand: INC, DEC, NEG -/

theorem addCore_one (x : Word) :
    addCore x 1 false = { r := x + 1, c := decide (x = 0xFFFF), o := decide (x = 0x7FFF) } := by
  have hc : carries x 1 0 = decide (x = 0xFFFF) := by
    rw [carries, decide_eq_decide]
    bv_omega
  have ho : overflows x 1 (x + 1) = decide (x = 0x7FFF) := by
    rw [Bool.eq_iff_iff, overflows_iff, decide_eq_true_eq]
    bv_omega
  rw [addCore_false, hc, ho]

theorem subCore_one (x : Word) :
    subCore x 1 true = { r := x - 1, c := decide (x ≠ 0), o := decide (x = 0x8000) } := by
  have hc : fits x 1 0 = decide (x ≠ 0) := by
    rw [fits, decide_eq_decide]
    bv_omega
  have ho : subOverflows x 1 (x - 1) = decide (x = 0x8000) := by
    rw [subOverflows_eq, Bool.eq_iff_iff, overflows_iff, decide_eq_true_eq]
    bv_omega
  rw [subCore_true, hc, ho]

theorem subCore_from_zero (x : Word) :
    subCore 0 x true = { r := -x, c := decide (x = 0), o := decide (x = 0x8000) } := by
  have hr : 0 - x = -x := BitVec.zero_sub x
  have hc : fits 0 x 0 = decide (x = 0) := by
    rw [fits, decide_eq_decide]
    bv_omega
  have ho : subOverflows 0 x (-x) = decide (x = 0x8000) := by
    rw [subOverflows_eq, Bool.eq_iff_iff, overflows_iff, decide_eq_true_eq]
    bv_omega
  rw [subCore_true, hr, hc, ho]

/-! ### Results with their flags -/

/-- A sum written by an instruction that advances. -/
theorem advance_putSum (s : State) (d : Reg) (q : Sum) :
    s.advance.putSum d q = writes s d q.r (zcno s.re q.r q.c q.o) :=
  advance_setReg_setRe s d q.r _

/-- A difference written by an instruction that advances. -/
theorem advance_putDiff (s : State) (d : Reg) (q : Sum) :
    s.advance.putDiff d q = writes s d q.r (zcno s.re q.r (subC s q.c) q.o) :=
  advance_setReg_setRe s d q.r _

/-! ### The instructions -/

theorem exec_add (s : State) (d a b : Reg) :
    exec (.add d a b) s = .next (s.advance.putSum d (addCore (s.reg a) (s.reg b) false)) := rfl

theorem exec_addc (s : State) (d a b : Reg) :
    exec (.addc d a b) s = .next (s.advance.putSum d (addCore (s.reg a) (s.reg b) s.re.c)) := rfl

theorem exec_inc (s : State) (d : Reg) :
    exec (.inc d) s = .next (s.advance.putSum d (addCore (s.reg d) 1 false)) := rfl

theorem exec_sub (s : State) (d a b : Reg) :
    exec (.sub d a b) s = .next (s.advance.putDiff d (subCore (s.reg a) (s.reg b) true)) := rfl

theorem exec_subb (s : State) (d a b : Reg) :
    exec (.subb d a b) s = .next (s.advance.putDiff d (subCore (s.reg a) (s.reg b) s.re.c)) := rfl

theorem exec_dec (s : State) (d : Reg) :
    exec (.dec d) s = .next (s.advance.putDiff d (subCore (s.reg d) 1 true)) := rfl

theorem exec_neg (s : State) (d : Reg) :
    exec (.neg d) s = .next (s.advance.putDiff d (subCore 0 (s.reg d) true)) := rfl

/-- SUB in the vocabulary of the statements. -/
theorem exec_sub_writes (s : State) (d a b : Reg) :
    exec (.sub d a b) s =
      .next (writes s d (s.reg a - s.reg b) (zcno s.re (s.reg a - s.reg b) (subC s (fits (s.reg a) (s.reg b) 0))
        (subOverflows (s.reg a) (s.reg b) (s.reg a - s.reg b)))) := by
  rw [exec_sub, advance_putDiff, subCore_true]

end Sys2Proof.Proofs.Arithmetic

namespace Sys2Proof.Proofs
open Machine Claims Successor Equivalences Arithmetic

/-- Settles O14: each of the three is a sum written by `advance_putSum`. -/
theorem sumInstructions : Obligations.SumInstructions := by
  unfold Obligations.SumInstructions
  intro s d a b
  refine ⟨?add, ?addc, ?inc⟩
  case add => rw [exec_add, advance_putSum, addCore_false]
  case addc => rw [exec_addc, advance_putSum, addCore_eq]
  case inc => rw [exec_inc, advance_putSum, addCore_one]

/-- Settles O15: each is a difference written by `advance_putDiff`, and CMP is SUB with R0 as the destination. -/
theorem differenceInstructions : Obligations.DifferenceInstructions := by
  unfold Obligations.DifferenceInstructions
  intro s d a b
  refine ⟨⟨?sub, ?cmp⟩, ?subb, ?dec, ?neg⟩
  case sub => exact exec_sub_writes s d a b
  case cmp => rw [exec_cmp_eq_sub_r0, exec_sub_writes, writes_r0]
  case subb => rw [exec_subb, advance_putDiff, subCore_eq]
  case dec => rw [exec_dec, advance_putDiff, subCore_one]
  case neg => rw [exec_neg, advance_putDiff, subCore_from_zero]

end Sys2Proof.Proofs
end

section
/-! The logic instructions (41_logic.md R171 to R175): each writes one bitwise result with Z and N from it, and TEST is
AND with R0 as the destination. -/

namespace Sys2Proof.Proofs.Logic
open Machine Claims Successor

/-- A bitwise result written by an instruction that advances: SetLogic leaves E, C and O as they were (R170). -/
theorem advance_putLogic (s : State) (d : Reg) (r : Word) : s.advance.putLogic d r = writes s d r (zn s.re r) :=
  advance_setReg_setRe s d r _

theorem exec_com (s : State) (d : Reg) : exec (.com d) s = .next (s.advance.putLogic d (~~~s.reg d)) := rfl

theorem exec_and (s : State) (d a b : Reg) :
    exec (.and d a b) s = .next (s.advance.putLogic d (s.reg a &&& s.reg b)) := rfl

theorem exec_or (s : State) (d a b : Reg) :
    exec (.or d a b) s = .next (s.advance.putLogic d (s.reg a ||| s.reg b)) := rfl

theorem exec_xor (s : State) (d a b : Reg) :
    exec (.xor d a b) s = .next (s.advance.putLogic d (s.reg a ^^^ s.reg b)) := rfl

end Sys2Proof.Proofs.Logic

namespace Sys2Proof.Proofs
open Machine Claims Successor Equivalences Logic

/-- Settles O19: each is a bitwise result written by `advance_putLogic`, and TEST is AND with R0 as the destination. -/
theorem logicInstructions : Obligations.LogicInstructions := by
  unfold Obligations.LogicInstructions
  intro s d a b
  refine ⟨?com, ?and, ?or, ?xor, ?test⟩
  case com => rw [exec_com, advance_putLogic]
  case and => rw [exec_and, advance_putLogic]
  case or => rw [exec_or, advance_putLogic]
  case xor => rw [exec_xor, advance_putLogic]
  case test => rw [exec_test_eq_and_r0, exec_and, advance_putLogic, writes_r0]

end Sys2Proof.Proofs
end

section
/-! The shifts and rotates (42_shift.md R181, R182, R185 to R188). Each moves its register by one position and brings in
one bit at the end left free. The action lines write that move in two ways, a shift for the bits kept and an or for the
bit brought in; the two are matched here for any bit, and each instruction is then a choice of the bit. -/

namespace Sys2Proof.Proofs.Shift
open Machine Claims Successor Arithmetic

/-! ### One bit as a word -/

theorem getLsbD_bitAt0 (b : Bool) (i : Nat) : (bitAt0 b).getLsbD i = (decide (i = 0) && b) := by
  cases b <;> simp

/-- The rightmost bit, as ROR's action line takes it. -/
theorem and_one_eq_bitAt0 (v : Word) : v &&& 1 = bitAt0 (v.getLsbD 0) := by
  apply BitVec.eq_of_getLsbD_eq
  intro i _
  rw [BitVec.getLsbD_and, getLsbD_bitAt0]
  cases i <;> simp

/-- The leftmost bit, as ROL's action line takes it. -/
theorem shiftRight_eq_bitAt0 (v : Word) : v >>> 15 = bitAt0 (v.getLsbD 15) := by
  apply BitVec.eq_of_getLsbD_eq
  intro i _
  rw [BitVec.getLsbD_ushiftRight, getLsbD_bitAt0]
  cases i with
  | zero => simp
  | succ i => simp [BitVec.getLsbD_of_ge v (15 + (i + 1)) (by omega)]

/-! ### A move by one position -/

theorem shiftInLeft_eq (b : Bool) (v : Word) : shiftInLeft b v = v >>> 1 ||| bitAt0 b <<< 15 := by
  apply BitVec.eq_of_getLsbD_eq
  intro i hi
  rw [shiftInLeft_getLsbD, BitVec.getLsbD_or, BitVec.getLsbD_ushiftRight, BitVec.getLsbD_shiftLeft, getLsbD_bitAt0]
  rcases Nat.lt_succ_iff_lt_or_eq.mp hi with kept | rfl
  · simp [kept, kept.ne, Nat.add_comm]
  · simp

theorem shiftInRight_eq (v : Word) (b : Bool) : shiftInRight v b = v <<< 1 ||| bitAt0 b := by
  apply BitVec.eq_of_getLsbD_eq
  intro i hi
  rw [shiftInRight_getLsbD, BitVec.getLsbD_or, BitVec.getLsbD_shiftLeft, getLsbD_bitAt0]
  cases i with
  | zero => simp
  | succ i => simp [hi]

/-- With 0 brought in, the plain right shift. -/
theorem shiftInLeft_false (v : Word) : shiftInLeft false v = v >>> 1 := by
  rw [shiftInLeft_eq, bitAt0_false, BitVec.zero_shiftLeft, BitVec.or_zero]

/-- With 0 brought in, the plain left shift. -/
theorem shiftInRight_false (v : Word) : shiftInRight v false = v <<< 1 := by
  rw [shiftInRight_eq, bitAt0_false, BitVec.or_zero]

/-! ### The instructions -/

/-- A shift result written by an instruction that advances: SetShift leaves E and O as they were (R180). -/
theorem advance_putShift (s : State) (d : Reg) (r : Word) (out : Bool) :
    s.advance.putShift d r out = writes s d r (zcn s.re r out) :=
  advance_setReg_setRe s d r _

theorem exec_shr (s : State) (d : Reg) :
    exec (.shr d) s = .next (s.advance.putShift d (shiftInLeft false (s.reg d)) ((s.reg d).getLsbD 0)) := rfl

theorem exec_shl (s : State) (d : Reg) :
    exec (.shl d) s = .next (s.advance.putShift d (shiftInRight (s.reg d) false) ((s.reg d).getLsbD 15)) := rfl

theorem exec_ror (s : State) (d : Reg) :
    exec (.ror d) s =
      .next (s.advance.putShift d (shiftInLeft ((s.reg d).getLsbD 0) (s.reg d)) ((s.reg d).getLsbD 0)) := rfl

theorem exec_rol (s : State) (d : Reg) :
    exec (.rol d) s =
      .next (s.advance.putShift d (shiftInRight (s.reg d) ((s.reg d).getLsbD 15)) ((s.reg d).getLsbD 15)) := rfl

theorem exec_rorc (s : State) (d : Reg) :
    exec (.rorc d) s = .next (s.advance.putShift d (shiftInLeft s.re.c (s.reg d)) ((s.reg d).getLsbD 0)) := rfl

theorem exec_rolc (s : State) (d : Reg) :
    exec (.rolc d) s = .next (s.advance.putShift d (shiftInRight (s.reg d) s.re.c) ((s.reg d).getLsbD 15)) := rfl

end Sys2Proof.Proofs.Shift

namespace Sys2Proof.Proofs
open Machine Claims Shift

/-- Settles O20: each is a move by one position written by `advance_putShift`; the six differ in the bit brought in. -/
theorem shiftInstructions : Obligations.ShiftInstructions := by
  unfold Obligations.ShiftInstructions
  intro s d v right left
  refine ⟨?shr, ?shl, ?ror, ?rol, ?rorc, ?rolc⟩
  case shr => rw [exec_shr, advance_putShift, shiftInLeft_false]
  case shl => rw [exec_shl, advance_putShift, shiftInRight_false]
  case ror => rw [exec_ror, advance_putShift, shiftInLeft_eq, and_one_eq_bitAt0]
  case rol => rw [exec_rol, advance_putShift, shiftInRight_eq, shiftRight_eq_bitAt0]
  case rorc => rw [exec_rorc, advance_putShift, shiftInLeft_eq]
  case rolc => rw [exec_rolc, advance_putShift, shiftInRight_eq]

end Sys2Proof.Proofs
end

section
/-! The transfer instructions that write one register and leave the status bits (44_transfer.md). -/

namespace Sys2Proof.Proofs.Transfer
open Machine Claims Successor

/-- A register written by an instruction that advances and writes no status bit. -/
theorem advance_setReg (s : State) (d : Reg) (r : Word) : s.advance.setReg d r = writes s d r s.re := by
  rw [← advance_setReg_setRe]
  rfl

theorem exec_mov (s : State) (d a : Reg) : exec (.mov d a) s = .next (s.advance.setReg d (s.reg a)) := rfl

end Sys2Proof.Proofs.Transfer

namespace Sys2Proof.Proofs
open Machine Claims Transfer

/-- Settles O28: the value read is written by `advance_setReg`, which leaves the status bits. -/
theorem move : Obligations.Move := by
  unfold Obligations.Move
  intro s d a
  rw [exec_mov, advance_setReg]

end Sys2Proof.Proofs
end

section
/-! The generic instructions (45_generic.md R250 to R255): each advances pc, and all but NOP write one status bit. -/

namespace Sys2Proof.Proofs.Generic
open Machine Claims Successor

/-- Status bits written by an instruction that advances and writes no register. -/
theorem advance_setRe (s : State) (f : Flags) : s.advance.setRe f = flagsOnly s f := by
  rw [← writes_r0 s 0 f, ← advance_setReg_setRe, State.setReg_r0]

/-- An instruction that only advances writes back the status bits it found. -/
theorem advance_eq_flagsOnly (s : State) : s.advance = flagsOnly s s.re := by
  rw [← advance_setRe]
  rfl

theorem exec_nop (s : State) : exec .nop s = .next s.advance := rfl

theorem exec_eni (s : State) : exec .eni s = .next (s.advance.setRe { s.re with e := true }) := rfl

theorem exec_dsi (s : State) : exec .dsi s = .next (s.advance.setRe { s.re with e := false }) := rfl

theorem exec_stc (s : State) : exec .stc s = .next (s.advance.setRe { s.re with c := true }) := rfl

theorem exec_clc (s : State) : exec .clc s = .next (s.advance.setRe { s.re with c := false }) := rfl

theorem exec_cmc (s : State) : exec .cmc s = .next (s.advance.setRe { s.re with c := !s.re.c }) := rfl

end Sys2Proof.Proofs.Generic

namespace Sys2Proof.Proofs
open Machine Claims Generic

/-- Settles O35: NOP only advances, and each of the others writes its status bit by `advance_setRe`. -/
theorem genericInstructions : Obligations.GenericInstructions := by
  unfold Obligations.GenericInstructions
  intro s
  refine ⟨?nop, ?eni, ?dsi, ?stc, ?clc, ?cmc⟩
  case nop => rw [exec_nop, advance_eq_flagsOnly]
  case eni => rw [exec_eni, advance_setRe]
  case dsi => rw [exec_dsi, advance_setRe]
  case stc => rw [exec_stc, advance_setRe]
  case clc => rw [exec_clc, advance_setRe]
  case cmc => rw [exec_cmc, advance_setRe]

end Sys2Proof.Proofs
end

section
/-! The interrupt mask port FFFAh (61_io_devices.md R301, R318): the accesses of the data space at its address, and the
LOAD and the STOR that perform them. -/

namespace Sys2Proof.Proofs.Mask
open Machine Claims Successor Transfer

/-! ### Accesses at the address of the port -/

theorem memWrite_mask (s : State) (v : Word) : s.memWrite 0xFFFA v = s.setMask v := rfl

theorem memRead_mask (s : State) : s.memRead 0xFFFA = (s.im, s) := rfl

/-! ### LOAD and STOR -/

theorem exec_load (s : State) (d x : Reg) :
    exec (.load d x) s = .next ((s.advance.memRead (s.reg x)).2.setReg d (s.advance.memRead (s.reg x)).1) := rfl

theorem exec_stor (s : State) (x y : Reg) :
    exec (.stor x y) s = .next (s.advance.memWrite (s.reg x) (s.reg y)) := rfl

theorem advance_setMask (s : State) (v : Word) :
    s.advance.setMask v = { s with im := v, pc := nextPc s, ds := none } := by
  rw [advance_eq]
  rfl

theorem exec_stor_mask {s : State} {x : Reg} (y : Reg) (hx : s.reg x = 0xFFFA) :
    exec (.stor x y) s = .next (s.advance.setMask (s.reg y)) := by
  rw [exec_stor, hx, memWrite_mask]

theorem exec_load_mask {s : State} {x : Reg} (d : Reg) (hx : s.reg x = 0xFFFA) :
    exec (.load d x) s = .next (writes s d s.im s.re) := by
  rw [exec_load, hx, memRead_mask, advance_setReg, State.advance_im]

theorem reg_writes_same (s : State) {d : Reg} (r : Word) (f : Flags) (hd : d ≠ .r0) : (writes s d r f).reg d = r := by
  rw [← advance_setReg_setRe, State.setRe_reg, State.reg_setReg_same _ _ _ hd]

/-! ### What the mask lets be taken -/

/-- The conditions of R266 side by side: a request, E, and the vector's bit of the mask. -/
theorem takeable_eq (s : State) (v : Nat) : s.takeable v = (s.ip.getLsbD v && s.re.e && s.im.getLsbD v) := by
  rw [State.takeable, State.enabled, Bool.and_assoc]

/-! ### Two instructions in a row -/

theorem runAll_pair {i j : Instr} {s t u : State} (hi : exec i s = .next t) (hj : exec j t = .next u) :
    runAll [i, j] s = .next u := by
  simp only [runAll, hi, hj]

end Sys2Proof.Proofs.Mask

namespace Sys2Proof.Proofs
open Machine Claims Mask

/-- Settles O43: the STOR sets the mask by `exec_stor_mask` and leaves the address register, so that the LOAD after it
reads the port again; `takeable_eq` shows the mask as one of the three conditions of R266. -/
theorem maskPort : Obligations.MaskPort := by
  unfold Obligations.MaskPort
  intro s x y hx
  have hstor := exec_stor_mask y hx
  refine ⟨⟨?written, fun v _ => takeable_eq _ v⟩, fun d hd => ?readBack⟩
  case written => rw [hstor, advance_setMask]
  case readBack =>
    have hx' : (s.advance.setMask (s.reg y)).reg x = 0xFFFA := by rw [State.setMask_reg, State.advance_reg, hx]
    exact ⟨_, runAll_pair hstor (exec_load_mask d hx'), reg_writes_same _ _ _ hd⟩

end Sys2Proof.Proofs
end

section
/-! PE-1 and the parameter ENCODING (30_encoding.md R85 to R102). The laws about fields say which fields an encoded word
has and that a word is made of its fields; the decoder reads just those, so that the two directions follow format by
format. Every other legal ENCODING is a table without repetitions. -/

namespace Sys2Proof.Proofs.Encoding
open Machine

/-! ### The decoder on octets -/

theorem decode_octets {w : Word} {i : Instr} (h : decodeWord w = .ok i) (rest : List Byte) :
    decode (Word.octets w ++ rest) = .ok (i, rest) := by
  have hw : field w 8 8 ++ field w 0 8 = w := octets_append w
  simp only [Word.octets, List.cons_append, List.nil_append, decode, hw, h]

/-! ### Must-be-zero fields and the constants of MVI -/

theorem ifZero_of_eq {w : Word} {lo n : Nat} (h : field w lo n = 0) (r : Decoded) : ifZero w lo n r = r := if_pos h

theorem ifZero_eq_ok {w : Word} {lo n : Nat} {r : Decoded} {i : Instr} :
    ifZero w lo n r = .ok i ↔ field w lo n = 0 ∧ r = .ok i := by
  unfold ifZero
  split <;> simp_all

/-- The reserved fields of format I9 are those of the constants that R94 does not allow. -/
theorem mviReserved_eq (c : BitVec 9) : mviReserved c = !mviConstOk c := by
  have hc := c.isLt
  rw [mviReserved, mviConstOk, BitVec.toInt_eq_toNat_cond, ← decide_not, decide_eq_decide]
  split <;> omega

/-! ### From the instruction to its word and back -/

/-- Each format puts its operands where the decoder reads them, and its function value where the decoder chooses. -/
theorem decodeWord_encode {i : Instr} (h : i.wellFormed = true) : decodeWord (encode i) = .ok i := by
  cases i with
  | nop | eni | dsi | stc | clc | cmc | rti => simp [encode, decodeWord, decodeZ, ifZero_of_eq, encodeZ_fields]
  | int k => simp [encode, decodeWord, decodeK, ifZero_of_eq, encodeK_fields]
  | add d s t | addc d s t | sub d s t | subb d s t | and d s t | or d s t | xor d s t =>
    simp [encode, decodeWord, decodeR3, regField, encodeR3_fields, Reg.ofBits_bits]
  | cmp s t | test s t =>
    simp [encode, decodeWord, decodeR2, ifZero_of_eq, regField, encodeR2_fields, Reg.ofBits_bits]
  | neg r | inc r | dec r | com r | shr r | shl r | shra r | shla r | ror r | rol r | rorc r | rolc r =>
    simp [encode, decodeWord, decodeR1, ifZero_of_eq, regField, encodeR1_fields, Reg.ofBits_bits]
  | mov x y | load x y | stor x y =>
    simp [encode, decodeWord, decodeT, ifZero_of_eq, regField, encodeT_fields, Reg.ofBits_bits]
  | mvi r c =>
    have hc : mviConstOk c = true := h
    simp [encode, decodeWord, decodeI9, mviReserved_eq, hc, regField, encodeI9_fields, Reg.ofBits_bits]
  | mvih r b | mvil r b => simp [encode, decodeWord, ifZero_of_eq, regField, encodeI8_fields, Reg.ofBits_bits]
  | br d | brZ d | brNZ d | brN d | brNN d | brP d | brNP d | brC d | brNC d | brO d | brNO d =>
    simp [encode, decodeWord, decodeB, encodeB_fields]
  | jmp r | jmpZ r | jmpNZ r | jmpN r | jmpNN r | jmpP r | jmpNP r | jmpC r | jmpNC r | jmpO r | jmpNO r =>
    simp [encode, decodeWord, decodeJmp, ifZero_of_eq, regField, encodeJ_fields, Reg.ofBits_bits]
  | jal r | jalZ r | jalNZ r | jalN r | jalNN r | jalP r | jalNP r | jalC r | jalNC r | jalO r | jalNO r =>
    simp [encode, decodeWord, decodeJal, ifZero_of_eq, regField, encodeJ_fields, Reg.ofBits_bits]

/-! ### From the word to its instruction and back -/

/-- A field is the constant that the decoder's choice compares its number with. -/
theorem field_eq_of_toNat {w : Word} {lo n : Nat} {f : BitVec n} (h : (field w lo n).toNat = f.toNat) :
    field w lo n = f := BitVec.eq_of_toNat_eq h

section
variable {w : Word} {i : Instr}

theorem encode_of_decodeZ (hmajor : field w 12 4 = 0) (h : decodeZ w = .ok i) :
    i.wellFormed = true ∧ encode i = w := by
  obtain ⟨hzero, h⟩ := ifZero_eq_ok.1 h
  have hw {f : BitVec 4} (hf : (field w 0 4).toNat = f.toNat) : encodeZ f = w := by
    refine Eq.trans ?_ (word_of_fields_8_4 w)
    simp [encodeZ, putField, hmajor, hzero, field_eq_of_toNat hf]
  split at h <;> cases h
  all_goals exact ⟨rfl, hw ‹_›⟩

theorem encode_of_decodeK (hmajor : field w 12 4 = 1) (h : decodeK w = .ok i) :
    i.wellFormed = true ∧ encode i = w := by
  obtain ⟨hzero, h⟩ := ifZero_eq_ok.1 h
  cases h
  refine ⟨rfl, Eq.trans ?_ (word_of_fields_4_8 w)⟩
  simp [encode, encodeK, putField, hmajor, hzero]

theorem encode_of_decodeR3 (hmajor : field w 12 4 = 2) (h : decodeR3 w = .ok i) :
    i.wellFormed = true ∧ encode i = w := by
  have hw {f : BitVec 3} (hf : (field w 0 3).toNat = f.toNat) :
      encodeR3 (regField w 9) (regField w 6) (regField w 3) f = w := by
    refine Eq.trans ?_ (word_of_fields_3333 w)
    simp [encodeR3, putField, regField_bits, hmajor, field_eq_of_toNat hf]
  unfold decodeR3 at h
  split at h <;> cases h
  all_goals exact ⟨rfl, hw ‹_›⟩

theorem encode_of_decodeR2 (hmajor : field w 12 4 = 3) (h : decodeR2 w = .ok i) :
    i.wellFormed = true ∧ encode i = w := by
  obtain ⟨hzero, h⟩ := ifZero_eq_ok.1 h
  have hw {f : BitVec 3} (hf : (field w 0 3).toNat = f.toNat) : encodeR2 (regField w 6) (regField w 3) f = w := by
    refine Eq.trans ?_ (word_of_fields_3333 w)
    simp [encodeR2, putField, regField_bits, hmajor, hzero, field_eq_of_toNat hf]
  split at h <;> cases h
  all_goals exact ⟨rfl, hw ‹_›⟩

theorem encode_of_decodeR1 (hmajor : field w 12 4 = 4) (h : decodeR1 w = .ok i) :
    i.wellFormed = true ∧ encode i = w := by
  obtain ⟨hzero, h⟩ := ifZero_eq_ok.1 h
  have hw {f : BitVec 4} (hf : (field w 0 4).toNat = f.toNat) : encodeR1 (regField w 9) f = w := by
    refine Eq.trans ?_ (word_of_fields_3_5_4 w)
    simp [encodeR1, putField, regField_bits, hmajor, hzero, field_eq_of_toNat hf]
  split at h <;> cases h
  all_goals exact ⟨rfl, hw ‹_›⟩

theorem encode_of_decodeT (hmajor : field w 12 4 = 5) (h : decodeT w = .ok i) :
    i.wellFormed = true ∧ encode i = w := by
  obtain ⟨hzero, h⟩ := ifZero_eq_ok.1 h
  have hw {f : BitVec 2} (hf : (field w 0 2).toNat = f.toNat) : encodeT (regField w 9) (regField w 6) f = w := by
    refine Eq.trans ?_ (word_of_fields_3_3_4_2 w)
    simp [encodeT, putField, regField_bits, hmajor, hzero, field_eq_of_toNat hf]
  split at h <;> cases h
  all_goals exact ⟨rfl, hw ‹_›⟩

/-- The decoder rejects just the constants that are not well-formed. -/
theorem encode_of_decodeI9 (hmajor : field w 12 4 = 6) (h : decodeI9 w = .ok i) :
    i.wellFormed = true ∧ encode i = w := by
  unfold decodeI9 at h
  split at h <;> cases h
  next hc =>
    rw [mviReserved_eq] at hc
    refine ⟨by simpa [Instr.wellFormed] using hc, Eq.trans ?_ (word_of_fields_3_9 w)⟩
    simp [encode, encodeI9, putField, regField_bits, hmajor]

/-- Format I8, for the two majors that use it. -/
theorem encodeI8_of_fields {major : BitVec 4} (hmajor : field w 12 4 = major) (hzero : field w 8 1 = 0) :
    encodeI8 major (regField w 9) (field w 0 8) = w := by
  refine Eq.trans ?_ (word_of_fields_3_1_8 w)
  simp [encodeI8, putField, regField_bits, hmajor, hzero]

theorem encode_of_decodeB (hmajor : field w 12 4 = 9) (h : decodeB w = .ok i) :
    i.wellFormed = true ∧ encode i = w := by
  have hw {c : BitVec 4} (hc : (field w 8 4).toNat = c.toNat) : encodeB c (field w 0 8) = w := by
    refine Eq.trans ?_ (word_of_fields_4_8 w)
    simp [encodeB, putField, hmajor, field_eq_of_toNat hc]
  unfold decodeB at h
  split at h <;> cases h
  all_goals exact ⟨rfl, hw ‹_›⟩

/-- Format J, for the two majors that use it. -/
theorem encodeJ_of_fields {major c : BitVec 4} (hmajor : field w 12 4 = major) (hzero : field w 3 5 = 0)
    (hc : (field w 8 4).toNat = c.toNat) : encodeJ major c (regField w 0) = w := by
  refine Eq.trans ?_ (word_of_fields_4_5_3 w)
  simp [encodeJ, putField, regField_bits, hmajor, hzero, field_eq_of_toNat hc]

theorem encode_of_decodeJmp (hmajor : field w 12 4 = 0xA) (h : decodeJmp w = .ok i) :
    i.wellFormed = true ∧ encode i = w := by
  obtain ⟨hzero, h⟩ := ifZero_eq_ok.1 h
  split at h <;> cases h
  all_goals exact ⟨rfl, encodeJ_of_fields hmajor hzero ‹_›⟩

theorem encode_of_decodeJal (hmajor : field w 12 4 = 0xB) (h : decodeJal w = .ok i) :
    i.wellFormed = true ∧ encode i = w := by
  obtain ⟨hzero, h⟩ := ifZero_eq_ok.1 h
  split at h <;> cases h
  all_goals exact ⟨rfl, encodeJ_of_fields hmajor hzero ‹_›⟩

theorem encode_of_decodeWord (h : decodeWord w = .ok i) : i.wellFormed = true ∧ encode i = w := by
  unfold decodeWord at h
  split at h
  case h_1 hm => exact encode_of_decodeZ (field_eq_of_toNat hm) h
  case h_2 hm => exact encode_of_decodeK (field_eq_of_toNat hm) h
  case h_3 hm => exact encode_of_decodeR3 (field_eq_of_toNat hm) h
  case h_4 hm => exact encode_of_decodeR2 (field_eq_of_toNat hm) h
  case h_5 hm => exact encode_of_decodeR1 (field_eq_of_toNat hm) h
  case h_6 hm => exact encode_of_decodeT (field_eq_of_toNat hm) h
  case h_7 hm => exact encode_of_decodeI9 (field_eq_of_toNat hm) h
  case h_8 hm | h_9 hm =>
    obtain ⟨hzero, h⟩ := ifZero_eq_ok.1 h
    cases h
    exact ⟨rfl, encodeI8_of_fields (field_eq_of_toNat hm) hzero⟩
  case h_10 hm => exact encode_of_decodeB (field_eq_of_toNat hm) h
  case h_11 hm => exact encode_of_decodeJmp (field_eq_of_toNat hm) h
  case h_12 hm => exact encode_of_decodeJal (field_eq_of_toNat hm) h
  case h_13 => cases h

end

/-! ### Every legal ENCODING -/

/-- A word that a table lists once is the word of the instruction of its row. -/
theorem encodeBy_table {rows : List (Word × Instr)} {w : Word} {i : Instr} (hn : (rows.map Prod.snd).Nodup)
    (h : (w, i) ∈ rows) : encodeBy (.table rows) i = some w := by
  have hfound : (rows.find? fun row => row.2 == i).isSome := List.find?_isSome.2 ⟨(w, i), h, beq_self_eq_true i⟩
  obtain ⟨row, hrow⟩ := Option.isSome_iff_exists.1 hfound
  have hi : row.2 = i := eq_of_beq (List.find?_some hrow :)
  have hsame : row = (w, i) := List.inj_on_of_nodup_map hn (List.mem_of_find?_eq_some hrow) h hi
  simp only [encodeBy, hrow, hsame, Option.map_some]

theorem mem_of_lookup {rows : List (Word × Instr)} {w : Word} {i : Instr} (h : rows.lookup w = some i) :
    (w, i) ∈ rows := by
  obtain ⟨before, after, rfl, -⟩ := List.lookup_eq_some_iff.1 h
  simp

variable {enc : Config.Encoding} {i : Instr}

/-- A word that decodes is the word of a well-formed instruction. -/
theorem encodeBy_of_decodeBy (hl : enc.legal) {w : Word} (h : decodeBy enc w = .ok i) :
    i.wellFormed = true ∧ encodeBy enc i = some w := by
  cases enc with
  | pe1 =>
    obtain ⟨hwf, rfl⟩ := encode_of_decodeWord h
    exact ⟨hwf, if_pos hwf⟩
  | table rows =>
    obtain ⟨-, hinstrs, hlisted⟩ := hl
    unfold decodeBy at h
    split at h
    · next heq => cases heq
    · next heq =>
      cases heq
      split at h <;> cases h
      next hlookup =>
        have hmem := mem_of_lookup hlookup
        exact ⟨(hlisted i).2 (List.mem_map_of_mem hmem), encodeBy_table hinstrs hmem⟩

/-- A well-formed instruction has a word, which decodes to it. -/
theorem decodeBy_of_wellFormed (hl : enc.legal) (h : i.wellFormed = true) :
    ∃ w, encodeBy enc i = some w ∧ decodeBy enc w = .ok i := by
  cases enc with
  | pe1 => exact ⟨encode i, if_pos h, decodeWord_encode h⟩
  | table rows =>
    obtain ⟨hwords, hinstrs, hlisted⟩ := hl
    obtain ⟨⟨w, j⟩, hmem, rfl⟩ := List.mem_map.1 ((hlisted i).1 h)
    exact ⟨w, encodeBy_table hinstrs hmem, decodeBy_table hwords hmem⟩

end Sys2Proof.Proofs.Encoding

namespace Sys2Proof.Proofs
open Machine Encoding

/-- Settles O1: the word decodes by `decodeWord_encode`, and the octets of a word are put together again. -/
theorem encodeThenDecode : Obligations.EncodeThenDecode := by
  unfold Obligations.EncodeThenDecode
  intro i rest h
  exact decode_octets (decodeWord_encode h) rest

/-- Settles O2, format by format in `encode_of_decodeWord`. -/
theorem decodeThenEncode : Obligations.DecodeThenEncode := by
  unfold Obligations.DecodeThenEncode
  intro w i h
  exact encode_of_decodeWord h

/-- Settles O4: each word is evaluated. -/
theorem workedWords : Obligations.WorkedWords := by
  unfold Obligations.WorkedWords
  decide

end Sys2Proof.Proofs
end

section
/-! What a step does (10_state.md R28): it takes an interrupt, or runs the instruction fetched, or is refused. An
instruction is refused in one case, a control instruction in the slot of a taken jump (43_control.md R210). -/

namespace Sys2Proof.Proofs.Stepping
open Machine Claims Encoding

/-! ### The meanings of the control instructions -/

theorem exec_br (s : State) (d : BitVec 8) :
    exec (.br d) s = s.control fun s' => s'.goTo (s.hasSlot .br) (s.relTarget d) := rfl

theorem exec_jmp (s : State) (r : Reg) :
    exec (.jmp r) s = s.control fun s' => s'.goTo (s.hasSlot .jmp) (s.reg r) := rfl

theorem exec_jal (s : State) (r : Reg) :
    exec (.jal r) s = s.control fun s' => (s'.setReg .r7 s.link).goTo (s.hasSlot .jal) (s.reg r) := rfl

theorem exec_int (s : State) (k : BitVec 8) :
    exec (.int k) s = s.control fun s' => s'.enter s'.pc (s.hasSlot .int) (intBase + k.setWidth 16) := rfl

theorem exec_rti (s : State) : exec .rti s = s.control State.leave := rfl

/-! ### Which instructions stop -/

theorem memRead_advances (s : State) (a : Word) : (s.memRead a).2.ds = s.ds ∧ (s.memRead a).2.pc = s.pc := by
  rcases s.memRead_cases a with h | h | h <;> simp [h]

theorem memWrite_advances (s : State) (a v : Word) : (s.memWrite a v).ds = s.ds ∧ (s.memWrite a v).pc = s.pc := by
  rcases s.memWrite_cases a v with ⟨-, h⟩ | ⟨-, -, h⟩ | ⟨-, -, h⟩ <;> simp [h]

/-- The control instructions go through `State.control`; every other one completes and advances. -/
theorem exec_control_or_advances (i : Instr) :
    (isControl i = true ∧ ∀ s, ∃ k, exec i s = s.control k) ∨
    (isControl i = false ∧ ∀ s, ∃ t, exec i s = .next t ∧ t.ds = none ∧ t.pc = s.advance.pc) := by
  cases i with
  | nop | eni | dsi | stc | clc | cmc
  | add | addc | sub | subb | neg | inc | dec | cmp
  | and | or | xor | com | test
  | shr | shl | shra | shla | ror | rol | rorc | rolc
  | mov | mvi | mvih | mvil => exact .inr ⟨rfl, fun _ => ⟨_, rfl, rfl, rfl⟩⟩
  | load d x => exact .inr ⟨rfl, fun s => ⟨_, rfl, memRead_advances s.advance (s.reg x)⟩⟩
  | stor x y => exact .inr ⟨rfl, fun s => ⟨_, rfl, memWrite_advances s.advance (s.reg x) (s.reg y)⟩⟩
  | br d => exact .inl ⟨rfl, fun s => ⟨_, exec_br s d⟩⟩
  | jmp r => exact .inl ⟨rfl, fun s => ⟨_, exec_jmp s r⟩⟩
  | jal r => exact .inl ⟨rfl, fun s => ⟨_, exec_jal s r⟩⟩
  | int k => exact .inl ⟨rfl, fun s => ⟨_, exec_int s k⟩⟩
  | rti => exact .inl ⟨rfl, fun s => ⟨_, exec_rti s⟩⟩
  | brZ | brNZ | brN | brNN | brP | brNP | brC | brNC | brO | brNO
  | jmpZ | jmpNZ | jmpN | jmpNN | jmpP | jmpNP | jmpC | jmpNC | jmpO | jmpNO
  | jalZ | jalNZ | jalN | jalNN | jalP | jalNP | jalC | jalNC | jalO | jalNO => exact .inl ⟨rfl, fun _ => ⟨_, rfl⟩⟩

theorem exec_advances {i : Instr} (hi : isControl i = false) (s : State) :
    ∃ t, exec i s = .next t ∧ t.ds = none ∧ t.pc = s.advance.pc := by
  rcases exec_control_or_advances i with ⟨hc, -⟩ | ⟨-, h⟩
  · exact absurd (hi.symm.trans hc) nofun
  · exact h s

theorem exec_refused_in_slot {i : Instr} {s : State} (hi : isControl i = true) (hds : s.ds ≠ none) :
    exec i s = .refused .controlInDelaySlot := by
  rcases exec_control_or_advances i with ⟨-, hc⟩ | ⟨hn, -⟩
  · obtain ⟨k, hk⟩ := hc s
    rw [hk, State.control_of_some k hds]
  · exact absurd (hi.symm.trans hn) nofun

theorem exec_completes {i : Instr} {s : State} (h : ¬(isControl i = true ∧ s.ds ≠ none)) : ∃ t, exec i s = .next t := by
  rcases exec_control_or_advances i with ⟨hi, hc⟩ | ⟨-, hn⟩
  · obtain ⟨k, hk⟩ := hc s
    have hds : s.ds = none := by simpa [hi] using h
    exact ⟨_, hk.trans (State.control_of_none k hds)⟩
  · obtain ⟨t, ht, -, -⟩ := hn s
    exact ⟨t, ht⟩

/-! ### One step -/

section
variable {s : State}

theorem step_of_accepted {v : Nat} (h : s.deliver.accepted = some v) : step s = .next (s.deliver.takeInterrupt v) := by
  rw [step, State.cycle, h]

theorem step_of_unaccepted (h : s.deliver.accepted = none) : step s = s.deliver.runInstruction := by
  rw [step, State.cycle, h]

theorem runInstruction_of_unloaded (h : s.fetchWord = none) : s.runInstruction = .refused .unloadedProgram := by
  rw [State.runInstruction, h]

theorem runInstruction_of_reserved {w : Word} {why : DecodeReject} (hw : s.fetchWord = some w)
    (hd : decodeBy s.params.encoding w = .error why) : s.runInstruction = .refused (.reservedWord why) := by
  simp only [State.runInstruction, hw, hd]

theorem runInstruction_of_decoded {w : Word} {i : Instr} (hw : s.fetchWord = some w)
    (hd : decodeBy s.params.encoding w = .ok i) : s.runInstruction = exec i s := by
  simp only [State.runInstruction, hw, hd]

theorem step_of_decoded {w : Word} {i : Instr} (ha : s.deliver.accepted = none) (hw : s.deliver.fetchWord = some w)
    (hd : decodeBy s.params.encoding w = .ok i) : step s = exec i s.deliver := by
  rw [← s.deliver_params] at hd
  rw [step_of_unaccepted ha, runInstruction_of_decoded hw hd]

theorem step_of_reserved {w : Word} {why : DecodeReject} (ha : s.deliver.accepted = none)
    (hw : s.deliver.fetchWord = some w) (hd : decodeBy s.params.encoding w = .error why) :
    step s = .refused (.reservedWord why) := by
  rw [← s.deliver_params] at hd
  rw [step_of_unaccepted ha, runInstruction_of_reserved hw hd]

/-- The four things a step can come to. -/
inductive StepCase (s : State) : Prop where
  | entry (v : Nat) (ha : s.deliver.accepted = some v) (h : step s = .next (s.deliver.takeInterrupt v))
  | unloaded (ha : s.deliver.accepted = none) (hw : s.deliver.fetchWord = none) (h : step s = .refused .unloadedProgram)
  | reserved (w : Word) (why : DecodeReject) (ha : s.deliver.accepted = none) (hw : s.deliver.fetchWord = some w)
      (hd : decodeBy s.params.encoding w = .error why) (h : step s = .refused (.reservedWord why))
  | decoded (w : Word) (i : Instr) (ha : s.deliver.accepted = none) (hw : s.deliver.fetchWord = some w)
      (hd : decodeBy s.params.encoding w = .ok i) (h : step s = exec i s.deliver)

theorem step_cases (s : State) : StepCase s := by
  cases ha : s.deliver.accepted with
  | some v => exact .entry v ha (step_of_accepted ha)
  | none =>
    cases hw : s.deliver.fetchWord with
    | none => exact .unloaded ha hw ((step_of_unaccepted ha).trans (runInstruction_of_unloaded hw))
    | some w =>
      cases hd : decodeBy s.params.encoding w with
      | error why => exact .reserved w why ha hw hd (step_of_reserved ha hw hd)
      | ok i => exact .decoded w i ha hw hd (step_of_decoded ha hw hd)

/-! ### A word placed where the next fetch reads -/

theorem placeAtPc_fetchWord (s : State) (w : Word) : (s.placeAtPc w).fetchWord = some w := by
  rw [State.fetchWord, State.placeAtPc_pmem, State.placeAtPc_pc, Memory.loadedWord_setWord, if_pos rfl]

/-- Acceptance does not look at program memory. -/
theorem placeAtPc_accepted (s : State) (w : Word) : (s.placeAtPc w).accepted = s.accepted := rfl

theorem step_placeAtPc {w : Word} {i : Instr} (hin : s.inputs = []) (ha : s.accepted = none)
    (hd : decodeBy s.params.encoding w = .ok i) : step (s.placeAtPc w) = exec i (s.placeAtPc w) := by
  have hdeliver : (s.placeAtPc w).deliver = s.placeAtPc w := State.deliver_nil hin
  have hrun := step_of_decoded (s := s.placeAtPc w) (w := w) (i := i)
  rw [hdeliver] at hrun
  exact hrun ((placeAtPc_accepted s w).trans ha) (placeAtPc_fetchWord s w) hd

theorem ofNat_toNat_mod (w : Word) : BitVec.ofNat 16 (w.toNat % 2 ^ 16) = w := by
  rw [Nat.mod_eq_of_lt w.isLt, BitVec.ofNat_toNat, BitVec.setWidth_eq]

theorem withFetchWord_toNat (s : State) (w : Word) : s.withFetchWord 16 w.toNat = s.placeAtPc w := by
  rw [State.withFetchWord, ofNat_toNat_mod]

theorem decodeTableWord_toNat {w : Word} {i : Instr} (h : decodeWord w = .ok i) :
    decodeTableWord 16 w.toNat = some i := by
  have hd := decode_octets h []
  rw [List.append_nil] at hd
  rw [decodeTableWord, ofNat_toNat_mod, hd]

end

end Sys2Proof.Proofs.Stepping

namespace Sys2Proof.Proofs
open Machine Claims Successor Encoding Stepping

/-- Settles O3: by `encodeBy_of_decodeBy` the word would have an instruction if it decoded, so it is rejected, and the
step that fetches it answers with that rejection. -/
theorem reservedWordRefused : Obligations.ReservedWordRefused := by
  unfold Obligations.ReservedWordRefused
  intro enc w hl hnone
  cases hd : decodeBy enc w with
  | ok i =>
    obtain ⟨hwf, hword⟩ := encodeBy_of_decodeBy hl hd
    exact absurd hword (hnone i hwf)
  | error why =>
    refine ⟨why, rfl, fun s hs ha hw => step_of_reserved ha hw ?_⟩
    rw [hs, hd]

/-- Settles O5. -/
theorem stepRunsDecoded : Obligations.StepRunsDecoded := by
  unfold Obligations.StepRunsDecoded
  refine ⟨fun s w i ha hw hd => ⟨step_of_decoded ha hw hd, fun hl => ?wf⟩, fun _ => State.deliver_nil, trivial,
    decodeBy_pe1⟩
  case wf => exact (encodeBy_of_decodeBy hl hd).1

/-- Settles O6: the word of the instruction, which `decodeBy_of_wellFormed` gives under every legal ENCODING, is the one
fetched. -/
theorem placedInstructionRuns : Obligations.PlacedInstructionRuns := by
  unfold Obligations.PlacedInstructionRuns
  intro s i hwf hin ha
  have hpe1 := decodeWord_encode hwf
  refine ⟨fun hl => ?_, fun henc => ?_, decodeTableWord_toNat hpe1⟩
  · obtain ⟨w, hw, hd⟩ := decodeBy_of_wellFormed hl hwf
    exact ⟨w, hw, step_placeAtPc hin ha hd⟩
  · rw [withFetchWord_toNat]
    exact step_placeAtPc hin ha (by rw [henc]; exact hpe1)

/-- Settles O8. -/
theorem everyInstructionCompletes : Obligations.EveryInstructionCompletes := by
  unfold Obligations.EveryInstructionCompletes
  exact fun i s => ⟨fun ⟨hi, hds⟩ => exec_refused_in_slot hi hds, exec_completes⟩

/-- Settles O9: `exec_advances` names the one pc that an instruction which is no control instruction leaves. -/
theorem delaySlot : Obligations.DelaySlot := by
  unfold Obligations.DelaySlot
  intro i s hi
  obtain ⟨t, ht, hds, hpc⟩ := exec_advances hi s
  refine ⟨t, ht, hds, fun a ha => ?pending, fun hnone => ?successor⟩
  case pending => rw [hpc, advance_pc_eq_nextPc, nextPc, ha]
  case successor =>
    rw [hpc, State.advance_pc_of_none hnone, fitPc_toNat, BitVec.toNat_add]
    cases s.params.pcWidth with
    | bits15 => exact Nat.mod_mod_of_dvd _ (by decide)
    | bits16 => rfl

/-- Settles O7: of the four cases of a step three can stop, the decoded instruction only as O8 says. -/
theorem stepStopsOnlyWhere : Obligations.StepStopsOnlyWhere := by
  unfold Obligations.StepStopsOnlyWhere
  intro s
  refine ⟨nofun, fun r hr => ?_⟩
  cases step_cases s with
  | entry v ha h => cases h.symm.trans hr
  | unloaded ha hw h =>
    cases h.symm.trans hr
    exact ⟨ha, .inl ⟨rfl, hw⟩⟩
  | reserved w why ha hw hd h =>
    cases h.symm.trans hr
    exact ⟨ha, .inr (.inl ⟨w, why, hw, hd, rfl⟩)⟩
  | decoded w i ha hw hd h =>
    by_cases hslot : isControl i = true ∧ s.deliver.ds ≠ none
    · obtain ⟨hi, hds⟩ := hslot
      cases (h.trans (exec_refused_in_slot hi hds)).symm.trans hr
      exact ⟨ha, .inr (.inr ⟨w, i, hw, hd, hi, hds, rfl⟩)⟩
    · obtain ⟨t, ht⟩ := exec_completes hslot
      cases (h.trans ht).symm.trans hr

end Sys2Proof.Proofs
end

section
/-! The host's events (80_host_simulator.md R388): a request under IRQ_POLICY, the timer's tick, what each event changes
and what none does, and the simulator that delivers them at a boundary. -/

namespace Sys2Proof.Proofs.Events
open Machine Claims

/-! ### A request -/

/-- A request changes the pending bits alone. -/
theorem raise_eq (s : State) (v : Nat) : s.raise v = { s with ip := (s.raise v).ip } := by
  rcases s.raise_cases v with h | h <;> simp only [h]
  rfl

section
variable (s : State) (v : Nat)

@[simp] theorem raise_re : (s.raise v).re = s.re := (congrArg State.re (raise_eq s v) :)
@[simp] theorem raise_dmem : (s.raise v).dmem = s.dmem := (congrArg State.dmem (raise_eq s v) :)
@[simp] theorem raise_dev : (s.raise v).dev = s.dev := (congrArg State.dev (raise_eq s v) :)
@[simp] theorem raise_inputs : (s.raise v).inputs = s.inputs := (congrArg State.inputs (raise_eq s v) :)

theorem raise_of_latch (h : s.params.irqPolicy = .latch) : s.raise v = s.setPending v := by rw [State.raise, h]

theorem raise_of_drop (h : s.params.irqPolicy = .drop) :
    s.raise v = if s.enabled v then s.setPending v else s := by rw [State.raise, h]

end

/-- The bits of a word with one bit set. -/
theorem getLsbD_or_one_shift {n v : Nat} (x : BitVec n) (hv : v < n) (u : Nat) :
    (x ||| 1#n <<< v).getLsbD u = (x.getLsbD u || decide (u = v)) := by
  have hone : (1#n <<< v).getLsbD u = (decide (v < n) && decide (v = u)) := BitVec.getLsbD_twoPow v u
  simp [hone, hv, eq_comm]

/-- The bits of a word with one bit cleared. -/
theorem getLsbD_and_not_one_shift {n v : Nat} (x : BitVec n) (hv : v < n) (u : Nat) :
    (x &&& ~~~(1#n <<< v)).getLsbD u = (x.getLsbD u && decide (u ≠ v)) := by
  have hone : (1#n <<< v).getLsbD u = (decide (v < n) && decide (v = u)) := BitVec.getLsbD_twoPow v u
  rw [BitVec.getLsbD_and, BitVec.getLsbD_not, hone]
  by_cases hu : u < n
  · simp [hv, hu, eq_comm]
  · simp [BitVec.getLsbD_of_ge x u (by omega)]

theorem raise_ip_other (s : State) {u v : Nat} (hv : v < 16) (hu : u ≠ v) :
    (s.raise v).ip.getLsbD u = s.ip.getLsbD u := by
  rcases s.raise_cases v with h | h <;> rw [h]
  rw [State.setPending_ip, getLsbD_or_one_shift _ hv]
  simp [hu]

/-! ### The timer -/

/-- A request does not look at the devices. -/
theorem raise_setDev (s : State) (d : Devices) (v : Nat) : (s.setDev d).raise v = (s.raise v).setDev d := by
  unfold State.raise
  rw [State.setDev_params]
  cases s.params.irqPolicy with
  | latch => rfl
  | drop =>
    show (if s.enabled v then _ else _) = _
    cases s.enabled v <;> rfl

/-- A tick changes the timer and, where the count ends, the pending bits. -/
theorem timerTick_eq (s : State) :
    s.timerTick =
      { s with
        dev := { s.dev with timer := s.dev.timer.tick }
        ip := if s.dev.timer.expires then (s.raise timerVector).ip else s.ip } := by
  rw [State.timerTick, raise_setDev, raise_eq]
  cases s.dev.timer.expires <;> rfl

theorem tick_of_stopped {t : Timer} (h : t.run = false) : t.tick = t ∧ t.expires = false := by
  simp [Timer.tick, Timer.expires, h]

/-- A running timer counts, and the tick that reaches the duration is the one that ends the count. -/
theorem tick_of_running {t : Timer} (h : t.run = true) :
    t.tick = { t with elapsed := t.elapsed + 1, run := decide (t.elapsed + 1 < t.duration.toNat) } ∧
      t.expires = decide (t.duration.toNat ≤ t.elapsed + 1) := by
  simp [Timer.tick, Timer.expires, h]

/-! ### The switches -/

theorem moveSwitch_getLsbD (sw : BitVec 10) (i : Fin 10) (up : Bool) (j : Nat) :
    (moveSwitch sw i up).getLsbD j = if j = i.val then up else sw.getLsbD j := by
  unfold moveSwitch
  cases up with
  | true =>
    rw [if_pos rfl, getLsbD_or_one_shift _ i.isLt]
    by_cases hj : j = i.val <;> simp [hj]
  | false =>
    rw [if_neg nofun, getLsbD_and_not_one_shift _ i.isLt]
    by_cases hj : j = i.val <;> simp [hj]

/-! ### What the events keep -/

/-- No host event changes data memory. -/
theorem applyEvent_dmem (s : State) (e : HostEvent) : (s.applyEvent e).dmem = s.dmem := by
  cases e with
  | button b => exact raise_dmem s b.vector
  | key code => exact raise_dmem (s.setDev _) keyboardVector
  | tick => exact (congrArg State.dmem (timerTick_eq s) :)
  | switch i up | accel x y z | reset => rfl

theorem applyEvent_inputs (s : State) (e : HostEvent) : (s.applyEvent e).inputs = s.inputs := by
  cases e with
  | button b => exact raise_inputs s b.vector
  | key code => exact raise_inputs (s.setDev _) keyboardVector
  | tick => exact (congrArg State.inputs (timerTick_eq s) :)
  | switch i up | accel x y z | reset => rfl

theorem deliver_dmem (s : State) : s.deliver.dmem = s.dmem :=
  State.deliver_induction (P := fun u => u.dmem = s.dmem) (fun _ => rfl) rfl
    fun u e h => (applyEvent_dmem u e).trans h

theorem foldl_applyEvent_inputs (events : List HostEvent) (s : State) :
    (events.foldl State.applyEvent s).inputs = s.inputs := by
  induction events generalizing s with
  | nil => rfl
  | cons e events ih => exact (ih (s.applyEvent e)).trans (applyEvent_inputs s e)

theorem deliver_cons {s : State} {events : List HostEvent} {later : List (List HostEvent)}
    (h : s.inputs = events :: later) : s.deliver = events.foldl State.applyEvent { s with inputs := later } := by
  rw [State.deliver, h]

/-! ### The simulator at a boundary -/

theorem foldl_applyEvent_withInputs (events : List HostEvent) (s : State) (rest : List (List HostEvent)) :
    events.foldl State.applyEvent { s with inputs := rest } =
      { events.foldl State.applyEvent s with inputs := rest } := by
  induction events generalizing s with
  | nil => rfl
  | cons e events ih => rw [List.foldl_cons, State.applyEvent_withInputs, ih, List.foldl_cons]

theorem foldl_applyEvent_machine (events : List HostEvent) (m : Sim) :
    (events.foldl Sim.applyEvent m).machine = events.foldl State.applyEvent m.machine := by
  induction events generalizing m with
  | nil => rfl
  | cons e events ih => rw [List.foldl_cons, ih, Sim.applyEvent_machine, List.foldl_cons]

theorem foldl_applyEvent_controls (events : List HostEvent) (m : Sim) :
    (events.foldl Sim.applyEvent m).running = m.running ∧
      (events.foldl Sim.applyEvent m).breakpoints = m.breakpoints := by
  induction events generalizing m with
  | nil => exact ⟨rfl, rfl⟩
  | cons e events ih =>
    obtain ⟨hrun, hbreak, -⟩ := m.applyEvent_controls e
    obtain ⟨hrun', hbreak'⟩ := ih (m.applyEvent e)
    exact ⟨hrun'.trans hrun, hbreak'.trans hbreak⟩

theorem deliverNow_controls (m : Sim) :
    m.deliverNow.running = m.running ∧ m.deliverNow.breakpoints = m.breakpoints := by
  unfold Sim.deliverNow
  split
  · exact ⟨rfl, rfl⟩
  · exact foldl_applyEvent_controls _ _

theorem deliverNow_of_nil {m : Sim} (h : m.machine.inputs = []) : m.deliverNow = m := by
  rw [Sim.deliverNow, h]

theorem deliverNow_of_no_event {m : Sim} {later : List (List HostEvent)} (h : m.machine.inputs = [] :: later) :
    m.deliverNow = m := by
  rw [Sim.deliverNow, h]
  show { m with machine := { m.machine with inputs := [] :: later } } = m
  rw [← h]

/-- The simulator applies the events of the boundary as the step would, and leaves an empty list in their place. -/
theorem deliverNow_machine (m : Sim) :
    ∃ rest, m.deliverNow.machine = { m.machine.deliver with inputs := rest } ∧
      (rest = [] ∨ ∃ later, rest = [] :: later) ∧ m.deliverNow.machine.deliver = m.machine.deliver := by
  unfold Sim.deliverNow
  split
  · next h => exact ⟨[], by rw [State.deliver_nil h, ← h], .inl rfl, rfl⟩
  · next events later h =>
    have hm := foldl_applyEvent_machine events { m with machine := { m.machine with inputs := [] :: later } }
    have hlater := deliver_cons h
    have hin : m.machine.deliver.inputs = later := by rw [hlater, foldl_applyEvent_inputs]
    have hempty : (events.foldl Sim.applyEvent { m with machine := { m.machine with inputs := [] :: later } }).machine =
        { m.machine.deliver with inputs := [] :: later } := by
      rw [hm, hlater, foldl_applyEvent_withInputs events m.machine later]
      exact foldl_applyEvent_withInputs events m.machine ([] :: later)
    refine ⟨_, hempty, .inr ⟨later, rfl⟩, ?_⟩
    rw [hempty, deliver_cons rfl]
    subst hin
    rfl

/-- A step sees of the event stream only what its delivery leaves. -/
theorem step_congr {s t : State} (h : s.deliver = t.deliver) : step s = step t := by
  rw [step, State.cycle, h]
  rfl

theorem step_deliverNow (m : Sim) : step m.deliverNow.machine = step m.machine := by
  obtain ⟨-, -, -, h⟩ := deliverNow_machine m
  exact step_congr h

/-- Nothing waits at a boundary whose events are applied, whatever the controls are. -/
theorem deliverNow_of_applied {m n : Sim} (h : n.machine = m.deliverNow.machine) : n.deliverNow = n := by
  obtain ⟨rest, hrest, hempty, -⟩ := deliverNow_machine m
  rcases hempty with rfl | ⟨later, rfl⟩
  · exact deliverNow_of_nil (by rw [h, hrest])
  · exact deliverNow_of_no_event (by rw [h, hrest])

theorem reset_eq (m : Sim) : m.reset = m.deliverNow.resetNow := by
  rw [Sim.reset, Sim.give, if_neg nofun]
  rfl

theorem advance_of_step {m : Sim} {t : State} (h : step m.machine = .next t) : m.advance = .next (m.after t) := by
  rw [Sim.advance, h]

theorem proceed_of_running {m : Sim} (h : m.running = true) : m.proceed = m.deliverNow.stopOrAdvance := by
  rw [Sim.proceed, h, if_pos rfl]

theorem stopOrAdvance_at {m : Sim} (hpos : position m.machine.pc ∈ m.breakpoints) (hpassed : m.passed = false) :
    m.stopOrAdvance = .next { m with running := false, passed := true } := by
  rw [Sim.stopOrAdvance, if_pos]
  simp [Sim.atBreakpoint, hpos, hpassed]

theorem stopOrAdvance_past {m : Sim} (h : position m.machine.pc ∉ m.breakpoints ∨ m.passed = true) :
    m.stopOrAdvance = m.advance := by
  rw [Sim.stopOrAdvance, if_neg]
  rcases h with h | h <;> simp [Sim.atBreakpoint, h]

end Sys2Proof.Proofs.Events

namespace Sys2Proof.Proofs
open Machine Claims Successor Events

/-- Settles O54. -/
theorem requestPolicy : Obligations.RequestPolicy := by
  unfold Obligations.RequestPolicy
  intro s v hv
  have hset : (s.setPending v).ip.getLsbD v = true := by simp [getLsbD_or_one_shift _ hv]
  refine ⟨?frame, fun u hu => raise_ip_other s hv hu, fun hlatch => ?latch, fun hdrop => ?drop⟩
  case frame => rw [raise_eq]
  case latch => rw [raise_of_latch s v hlatch, hset]
  case drop =>
    rw [raise_of_drop s v hdrop, ← State.enabled]
    cases s.enabled v
    · rw [if_neg nofun, Bool.or_false]
    · rw [if_pos rfl, hset, Bool.or_true]

/-- Settles O55: `timerTick_eq` says what a tick can change, and the timer itself stops or counts. -/
theorem timerTick : Obligations.TimerTick := by
  unfold Obligations.TimerTick
  intro s
  rw [timerTick_eq]
  refine ⟨fun hstopped => ?stopped, rfl, fun hrun => ?running⟩
  case stopped =>
    obtain ⟨htick, hexpires⟩ := tick_of_stopped hstopped
    simp [htick, hexpires]
  case running =>
    obtain ⟨htick, hexpires⟩ := tick_of_running hrun
    refine ⟨by rw [htick], by rw [htick], fun hbefore => ?_, fun hreached => ?_⟩
    · simp [htick, hexpires, hbefore]
    · simp [htick, hexpires, hreached, timerVector]

/-- Settles O56: a key's request is raised by `raise_setDev` as without the key. -/
theorem hostEvents : Obligations.HostEvents := by
  unfold Obligations.HostEvents
  intro s
  refine ⟨?button, fun k => ?key, fun i up => ⟨moveSwitch_getLsbD s.dev.sw i up, rfl⟩, fun _ _ _ => rfl, rfl, rfl,
    fun events later h => ?boundary⟩
  case button => simp [State.applyEvent, Button.vector]
  case key =>
    rw [State.applyEvent, raise_setDev, raise_eq]
    rfl
  case boundary => exact ⟨deliver_cons h, by rw [deliver_cons h, foldl_applyEvent_inputs]⟩

/-- Settles O11: both resets give the values of the tables, and a later one fits RESET_PC to the width of pc. -/
theorem resetValues : Obligations.ResetValues := by
  unfold Obligations.ResetValues
  refine fun s => ⟨rfl, fitPc_eq_inPc s s.params.resetPc, rfl, fun t ht => ?_⟩
  simp only [List.mem_cons, List.not_mem_nil, or_false] at ht
  rcases ht with rfl | rfl <;>
    exact ⟨rfl, rfl, rfl, rfl, rfl, rfl, rfl, rfl, rfl, rfl, rfl, rfl, fun _ => rfl, rfl, rfl, rfl, fun _ => rfl⟩

/-- Settles O12: a Reset is the machine's own on the state after the events of this boundary, none of which reaches a
memory. -/
theorem resetKeepsMemories : Obligations.ResetKeepsMemories := by
  unfold Obligations.ResetKeepsMemories
  intro m
  obtain ⟨rest, hm, -, -⟩ := deliverNow_machine m
  have hmachine : m.reset.machine = State.hostReset { m.machine.deliver with inputs := rest } := by
    rw [reset_eq, ← hm]
    rfl
  have hbreak : m.reset.breakpoints = m.breakpoints := by
    rw [reset_eq]
    exact (deliverNow_controls m).2
  have hclock : m.reset.clock = 0 := by
    rw [reset_eq]
    rfl
  rw [hmachine, ← m.machine.deliver_pmem, ← deliver_dmem m.machine, ← fitPc_eq_inPc, ← m.machine.deliver_params]
  exact ⟨fun _ => rfl, fun _ => rfl, rfl, rfl, rfl, rfl, rfl, rfl, rfl, hbreak, hclock, rfl⟩

/-- Settles O57: `step_deliverNow` takes the events out of the step to come, and `deliverNow_of_applied` says that the
Start after a stop finds none to apply, so that the breakpoint is passed. -/
theorem breakpoints : Obligations.Breakpoints := by
  unfold Obligations.Breakpoints
  intro m b
  obtain ⟨hrun, hbreak⟩ : b.running = m.running ∧ b.breakpoints = m.breakpoints := deliverNow_controls m
  have hstep : step b.machine = step m.machine := step_deliverNow m
  refine ⟨hstep, hbreak, deliverNow_of_nil, fun hr hpos hpassed => ?stop, fun hr hpast t ht => ?goOn, fun t ht => ?once,
    fun hr => ?idle⟩
  case stop =>
    refine ⟨{ b with running := false, passed := true }, ?_, rfl, rfl, hbreak, fun t ht => ?_⟩
    · rw [proceed_of_running hr, stopOrAdvance_at (hbreak ▸ hpos) hpassed]
    · have happlied : Sim.deliverNow { b with running := true, passed := true } =
          { b with running := true, passed := true } := deliverNow_of_applied (m := m) rfl
      refine ⟨Sim.after { b with running := true, passed := true } t, ?_, rfl, rfl⟩
      rw [Sim.start, proceed_of_running rfl, happlied, stopOrAdvance_past (.inr rfl)]
      exact advance_of_step (hstep.trans ht)
  case goOn =>
    refine ⟨b.after t, ?_, rfl, hrun.trans hr, rfl⟩
    rw [proceed_of_running hr, stopOrAdvance_past (hbreak ▸ hpast)]
    exact advance_of_step (hstep.trans ht)
  case once => exact ⟨b.stop.after t, advance_of_step (m := b.stop) (hstep.trans ht), rfl, rfl, rfl⟩
  case idle => exact ⟨by rw [Sim.proceed, hr, if_neg nofun], by rw [Sim.give, if_pos ⟨rfl, hr⟩]⟩

end Sys2Proof.Proofs
end

section
/-! What an instruction can change beside registers, status bits, pc and ds: said once for all instructions by
`exec_effect`, from which the frames follow (20_memory.md R51, R58, R61; 10_state.md R32; 60_exceptions.md R265,
R281). -/

namespace Sys2Proof.Proofs.Effects
open Machine Claims RegistersAndFlags Mask Stepping

/-! ### Registers, status bits, pc and ds alone -/

/-- `t` is `s` but for registers, status bits, pc and ds, and its pc is one that the width of pc holds. -/
structure Moves (s t : State) : Prop where
  rest : { s with regs := t.regs, re := t.re, pc := t.pc, ds := t.ds } = t
  pcFits : fitPc s.params.pcWidth t.pc = t.pc

namespace Moves
variable {s t : State}

theorem advance (s : State) : Moves s s.advance := ⟨rfl, fitPc_fitPc _ _⟩

theorem setReg (h : Moves s t) (d : Reg) (v : Word) : Moves s (t.setReg d v) :=
  ⟨congrArg (fun u : State => u.setReg d v) h.rest, h.pcFits⟩

theorem setRe (h : Moves s t) (f : Flags) : Moves s (t.setRe f) :=
  ⟨congrArg (fun u : State => u.setRe f) h.rest, h.pcFits⟩

theorem params_eq (h : Moves s t) : t.params = s.params := (congrArg State.params h.rest :).symm

theorem goTo (h : Moves s t) (slot : Bool) (a : Word) : Moves s (t.goTo slot a) := by
  cases slot with
  | true => exact ⟨congrArg (fun u : State => u.jumpTo a) h.rest, h.pcFits⟩
  | false =>
    refine ⟨?_, ?_⟩
    · rw [← h.rest]; rfl
    · show fitPc _ (fitPc t.params.pcWidth a) = fitPc t.params.pcWidth a
      rw [h.params_eq, fitPc_fitPc]

theorem of_control {k : State → State} (h : s.control k = .next t) (hk : Moves s (k s.advance)) : Moves s t := by
  obtain ⟨-, rfl⟩ := State.control_next h
  exact hk

theorem of_branchIf {k : Cond} {d : BitVec 8} (h : s.branchIf k d = .next t) : Moves s t := by
  obtain ⟨-, rfl | rfl⟩ := State.branchIf_next h
  · exact (advance s).goTo _ _
  · exact advance s

theorem of_jumpIf {k : Cond} {r : Reg} (h : s.jumpIf k r = .next t) : Moves s t := by
  obtain ⟨-, rfl | rfl⟩ := State.jumpIf_next h
  · exact (advance s).goTo _ _
  · exact advance s

theorem of_callIf {k : Cond} {r : Reg} (h : s.callIf k r = .next t) : Moves s t := by
  obtain ⟨-, rfl | rfl⟩ := State.callIf_next h
  · exact ((advance s).setReg _ _).goTo _ _
  · exact advance s

end Moves

/-! ### The effects of the instructions -/

/-- What an instruction that completes can have done to the rest of the state: nothing, or what a LOAD, a STOR or an
INT does. -/
inductive Effect (s : State) : Instr → State → Prop where
  | none {i : Instr} {t : State} (h : Moves s t) : Effect s i t
  | keyRead {d x : Reg} {u : State} (h : Moves s u) :
      Effect s (.load d x) (u.setDev { u.dev with term := { u.dev.term with keyFlag := false } })
  | freeRead {d x : Reg} {u : State} (h : Moves s u) : Effect s (.load d x) u.bumpFree
  | memory {x y : Reg} {u : State} (h : Moves s u) (a v : Word) :
      Effect s (.stor x y) (u.setDmem (Memory.setWord u.dmem (position a) v))
  | mask {x y : Reg} {u : State} (h : Moves s u) (v : Word) : Effect s (.stor x y) (u.setMask v)
  | device {x y : Reg} {u : State} (h : Moves s u) (p : Port) (v : Word) :
      Effect s (.stor x y) (u.setDev (u.dev.write p v))
  | entry {k : BitVec 8} {u : State} (h : Moves s u) (ret : Word) (hret : fitPc s.params.pcWidth ret = ret) :
      Effect s (.int k) { u with pcE := ret, reE := s.re, freeCount := s.freeCount + 1 }

theorem load_effect {s t : State} {d x : Reg} (h : exec (.load d x) s = .next t) : Effect s (.load d x) t := by
  rw [exec_load] at h
  obtain rfl := Host.Outcome.next.inj h
  generalize (s.advance.memRead (s.reg x)).1 = v
  have hu : Moves s (s.advance.setReg d v) := (Moves.advance s).setReg d v
  rcases s.advance.memRead_cases (s.reg x) with hm | hm | hm <;> rw [hm]
  · exact .none hu
  · exact .keyRead hu
  · exact .freeRead hu

theorem stor_effect {s t : State} {x y : Reg} (h : exec (.stor x y) s = .next t) : Effect s (.stor x y) t := by
  rw [exec_stor] at h
  obtain rfl := Host.Outcome.next.inj h
  have hu : Moves s s.advance := .advance s
  rcases s.advance.memWrite_cases (s.reg x) (s.reg y) with ⟨-, hm⟩ | ⟨-, -, hm⟩ | ⟨-, -, hm⟩ <;> rw [hm]
  · exact .memory hu _ _
  · exact .mask hu _
  · exact .device hu _ _

theorem enter_effect (s : State) (k : BitVec 8) (slot : Bool) (target : Word) :
    Effect s (.int k) (s.advance.enter s.advance.pc slot target) := by
  have hu : Moves s ((s.advance.setRe (entryFlags s.freeCount)).goTo slot target) :=
    ((Moves.advance s).setRe _).goTo _ _
  have he := Effect.entry (k := k) hu s.advance.pc (fitPc_fitPc _ _)
  cases slot <;> exact he

theorem int_effect {s t : State} {k : BitVec 8} (h : exec (.int k) s = .next t) : Effect s (.int k) t := by
  rw [exec_int] at h
  obtain ⟨-, rfl⟩ := State.control_next h
  exact enter_effect s k _ _

theorem exec_effect {i : Instr} {s t : State} (h : exec i s = .next t) : Effect s i t := by
  cases i with
  | nop | eni | dsi | stc | clc | cmc
  | add | addc | sub | subb | neg | inc | dec | cmp
  | and | or | xor | com | test
  | shr | shl | shra | shla | ror | rol | rorc | rolc
  | mov | mvi | mvih | mvil =>
    obtain rfl := Host.Outcome.next.inj h
    exact .none ⟨rfl, fitPc_fitPc _ _⟩
  | load d x => exact load_effect h
  | stor x y => exact stor_effect h
  | int k => exact int_effect h
  | br d => exact .none (.of_control ((exec_br s d).symm.trans h) ((Moves.advance s).goTo _ _))
  | jmp r => exact .none (.of_control ((exec_jmp s r).symm.trans h) ((Moves.advance s).goTo _ _))
  | jal r => exact .none (.of_control ((exec_jal s r).symm.trans h) (((Moves.advance s).setReg _ _).goTo _ _))
  | rti => exact .none (.of_control h (((Moves.advance s).setRe _).goTo _ _))
  | brZ | brNZ | brN | brNN | brP | brNP | brC | brNC | brO | brNO => exact .none (.of_branchIf h)
  | jmpZ | jmpNZ | jmpN | jmpNN | jmpP | jmpNP | jmpC | jmpNC | jmpO | jmpNO => exact .none (.of_jumpIf h)
  | jalZ | jalNZ | jalN | jalNN | jalP | jalNP | jalC | jalNC | jalO | jalNO => exact .none (.of_callIf h)

/-- The fields that no instruction changes. -/
theorem Effect.keeps {i : Instr} {s t : State} (h : Effect s i t) :
    t.ip = s.ip ∧ t.pmem = s.pmem ∧ t.params = s.params ∧ t.inputs = s.inputs := by
  cases h with
  | none h | keyRead h | freeRead h | memory h | mask h | device h | entry h =>
    rw [← h.rest]
    exact ⟨rfl, rfl, rfl, rfl⟩

/-! ### E -/

/-- The instructions whose "Flags:" line names E. -/
theorem flagLine_e {i : Instr} (h : (flagLine i).e = true) : i = .eni ∨ i = .dsi ∨ i = .rti ∨ ∃ k, i = .int k := by
  cases i with
  | eni => exact .inl rfl
  | dsi => exact .inr (.inl rfl)
  | rti => exact .inr (.inr (.inl rfl))
  | int k => exact .inr (.inr (.inr ⟨k, rfl⟩))
  | _ => cases h

theorem exec_e {i : Instr} {s t : State} (h : exec i s = .next t) (hne : t.re.e ≠ s.re.e) :
    i = .eni ∨ i = .dsi ∨ i = .rti ∨ ∃ k, i = .int k := by
  refine flagLine_e ?_
  by_contra hline
  obtain ⟨hkept, -⟩ := mergeFlags_unlisted (flagLine i) t.re s.re
  rw [← exec_re h] at hkept
  exact hne (hkept (by simpa using hline))

/-- Of the host's events only a Reset reaches the status bits. -/
theorem applyEvent_re {s : State} {e : HostEvent} (h : e ≠ .reset) : (s.applyEvent e).re = s.re := by
  cases e with
  | button b => exact Events.raise_re s b.vector
  | key code => exact Events.raise_re (s.setDev _) keyboardVector
  | tick => exact (congrArg State.re (Events.timerTick_eq s) :)
  | switch i up | accel x y z => rfl
  | reset => exact absurd rfl h

theorem foldl_applyEvent_re {events : List HostEvent} (h : .reset ∉ events) (s : State) :
    (events.foldl State.applyEvent s).re = s.re := by
  induction events generalizing s with
  | nil => rfl
  | cons e events ih =>
    rw [List.mem_cons, not_or] at h
    exact (ih h.2 (s.applyEvent e)).trans (applyEvent_re (Ne.symm h.1))

theorem deliver_re {s : State} (h : ¬resetDue s) : s.deliver.re = s.re := by
  cases hin : s.inputs with
  | nil => rw [State.deliver_nil hin]
  | cons events later =>
    rw [Events.deliver_cons hin]
    exact foldl_applyEvent_re (fun hmem => h ⟨events, later, hin, hmem⟩) _

end Sys2Proof.Proofs.Effects

namespace Sys2Proof.Proofs
open Machine Claims Effects

/-- Settles O38, from the effect each instruction can have. -/
theorem specialStateFrame : Obligations.SpecialStateFrame := by
  unfold Obligations.SpecialStateFrame
  intro i s t h
  have he := exec_effect h
  obtain ⟨hip, hpmem, hparams, hinputs⟩ := he.keeps
  rw [hpmem]
  suffices hrest : (¬isStor i → t.dmem = s.dmem ∧ t.im = s.im) ∧ (¬isLoad i → ¬isStor i → t.dev = s.dev) ∧
      ((∀ k, i ≠ .int k) → t.pcE = s.pcE ∧ t.reE = s.reE) by
    obtain ⟨hstor, hdev, hint⟩ := hrest
    exact ⟨fun hi a => by rw [(hstor hi).1], fun hi => (hstor hi).2, hdev, hint, hip, fun _ => rfl, hparams, hinputs⟩
  cases he with
  | none hu => rw [← hu.rest]; exact ⟨fun _ => ⟨rfl, rfl⟩, fun _ _ => rfl, fun _ => ⟨rfl, rfl⟩⟩
  | keyRead hu | freeRead hu =>
    rw [← hu.rest]
    exact ⟨fun _ => ⟨rfl, rfl⟩, fun hload => absurd ⟨_, _, rfl⟩ hload, fun _ => ⟨rfl, rfl⟩⟩
  | memory hu | mask hu | device hu =>
    rw [← hu.rest]
    exact ⟨fun hstor => absurd ⟨_, _, rfl⟩ hstor, fun _ hstor => absurd ⟨_, _, rfl⟩ hstor, fun _ => ⟨rfl, rfl⟩⟩
  | entry hu =>
    rw [← hu.rest]
    exact ⟨fun _ => ⟨rfl, rfl⟩, fun _ _ => rfl, fun hint => absurd rfl (hint _)⟩

/-- Settles O40: where no Reset is due the events keep E by `deliver_re`, and then the instruction by `exec_e`. -/
theorem enableChanges : Obligations.EnableChanges := by
  unfold Obligations.EnableChanges
  intro s t h hne
  by_cases hreset : resetDue s
  · exact .inl hreset
  rcases step_next h with ⟨v, hv, -⟩ | ⟨-, w, i, hw, hd, he⟩
  · exact .inr (.inl ⟨v, hv⟩)
  · rw [← deliver_re hreset] at hne
    exact .inr (.inr ⟨w, i, hw, hd, exec_e he hne⟩)

end Sys2Proof.Proofs
end

section
/-! The invariants of the machine: every host event, every interrupt entry and every effect of an instruction keeps the
canonical form of the memories, the grids of the screens and the width of pc (20_memory.md R50; 61_io_devices.md R302,
R306, R325; 10_state.md R24), and no source raises vectors 8h to Eh (60_exceptions.md R261). -/

namespace Sys2Proof.Proofs.Invariants
open Machine Claims Events Effects

/-! ### The screens -/

theorem nextCell_lt {rows cols row col : Nat} (hrow : row < rows) (hcol : col < cols) :
    (nextCell rows cols row col).1 < rows ∧ (nextCell rows cols row col).2 < cols := by
  unfold nextCell
  split
  · split <;> exact ⟨by omega, by omega⟩
  · exact ⟨hrow, by omega⟩

theorem nil_sparseWf {α : Type} (bound : Nat) : sparseWf bound ([] : List (Nat × α)) :=
  ⟨List.Pairwise.nil, fun _ h => absurd h List.not_mem_nil⟩

theorem spoil_inForm (t : Terminal) : t.spoil.inForm := ⟨nil_sparseWf 3600, nofun⟩

theorem putChar_inForm {t : Terminal} (code : Byte) (h : t.inForm) : (t.putChar code).inForm := by
  obtain ⟨hcells, hcursor⟩ := h
  unfold Terminal.putChar
  split
  · exact spoil_inForm t
  · next row col hat =>
    obtain ⟨hrow, hcol⟩ := hcursor row col hat
    refine ⟨sparseWrite_wf _ (by omega) hcells, fun row' col' h => ?_⟩
    cases h
    exact nextCell_lt hrow hcol

theorem setCursor_inForm {t : Terminal} (v : Word) (h : t.inForm) : (t.setCursor v).inForm := by
  simp only [Terminal.setCursor]
  split
  · next hin =>
    obtain ⟨hcells, -⟩ := h
    refine ⟨hcells, fun row col h => ?_⟩
    cases h
    omega
  · exact spoil_inForm t

theorem lcd_putChar_inForm {l : Lcd} (code : Byte) (h : l.inForm) : (l.putChar code).inForm := by
  obtain ⟨hcells, hline, hcol⟩ := h
  exact ⟨sparseWrite_wf _ (by omega) hcells, nextCell_lt hline hcol⟩

theorem lcd_control_inForm {l : Lcd} (v : Word) (h : l.inForm) : (l.control v).inForm := by
  obtain ⟨hcells, -⟩ := h
  refine ⟨?_, (v.extractLsb' 4 1).isLt, (v.extractLsb' 0 4).isLt⟩
  simp only [Lcd.control]
  split
  · exact nil_sparseWf 32
  · exact hcells

theorem write_inForm {d : Devices} (p : Port) (v : Word) (ht : d.term.inForm) (hl : d.lcd.inForm) :
    (d.write p v).term.inForm ∧ (d.write p v).lcd.inForm := by
  cases p with
  | termWrite => exact ⟨putChar_inForm _ ht, hl⟩
  | termCursor => exact ⟨setCursor_inForm v ht, hl⟩
  | lcdWrite => exact ⟨ht, lcd_putChar_inForm _ hl⟩
  | lcdControl => exact ⟨ht, lcd_control_inForm v hl⟩
  | _ => exact ⟨ht, hl⟩

/-! ### The invariant -/

theorem initial_inForm : Devices.initial.term.inForm ∧ Devices.initial.lcd.inForm := by
  refine ⟨⟨nil_sparseWf 3600, fun row col h => ?_⟩, nil_sparseWf 32, by decide, by decide⟩
  cases h
  decide

theorem fitPc_zero (width : Config.PcWidth) : fitPc width 0 = 0 := by cases width <;> rfl

/-- Registers, status bits and ds do not matter to the invariant, and the width of pc holds the pc of a move. -/
theorem Inv_of_moves {s t : State} (h : Moves s t) (hs : s.Inv) : t.Inv := by
  obtain ⟨hpmem, hdmem, hterm, hlcd, -, hpcE⟩ := hs
  rw [← h.rest]
  exact ⟨hpmem, hdmem, hterm, hlcd, h.pcFits, hpcE⟩

theorem Inv_of_effect {i : Instr} {s t : State} (h : Effect s i t) (hs : s.Inv) : t.Inv := by
  cases h with
  | none hu | freeRead hu | mask hu | keyRead hu => exact (Inv_of_moves hu hs :)
  | memory hu a v =>
    obtain ⟨hpmem, hdmem, hrest⟩ := Inv_of_moves hu hs
    exact ⟨hpmem, Memory.setWord_wf v (position_lt a) hdmem, hrest⟩
  | device hu p v =>
    obtain ⟨hpmem, hdmem, hterm, hlcd, hpc⟩ := Inv_of_moves hu hs
    obtain ⟨hterm', hlcd'⟩ := write_inForm p v hterm hlcd
    exact ⟨hpmem, hdmem, hterm', hlcd', hpc⟩
  | entry hu ret hret =>
    obtain ⟨hpmem, hdmem, hterm, hlcd, hpc, -⟩ := Inv_of_moves hu hs
    refine ⟨hpmem, hdmem, hterm, hlcd, hpc, ?_⟩
    show fitPc _ ret = ret
    rw [hu.params_eq, hret]

theorem hostReset_Inv {s : State} (hs : s.Inv) : s.hostReset.Inv := by
  obtain ⟨hpmem, hdmem, -⟩ := hs
  obtain ⟨hterm, hlcd⟩ := initial_inForm
  exact ⟨hpmem, hdmem, hterm, hlcd, fitPc_fitPc _ _, fitPc_zero _⟩

/-- The pending bits do not matter to the invariant. -/
theorem raise_Inv {s : State} (v : Nat) (hs : s.Inv) : (s.raise v).Inv := by
  rw [raise_eq]
  exact hs

theorem applyEvent_Inv {s : State} (e : HostEvent) (hs : s.Inv) : (s.applyEvent e).Inv := by
  cases e with
  | button b => exact raise_Inv _ hs
  | key code => exact raise_Inv _ (s := s.setDev _) hs
  | switch i up | accel x y z => exact hs
  | tick =>
    rw [State.applyEvent, timerTick_eq]
    exact hs
  | reset => exact hostReset_Inv hs

theorem deliver_Inv {s : State} (hs : s.Inv) : s.deliver.Inv :=
  State.deliver_induction (P := State.Inv) (fun _ => hs) hs fun _ e => applyEvent_Inv e

/-- A hardware entry saves the pc it finds, and the address of the routine goes to pc as any other does. -/
theorem takeInterrupt_Inv {s : State} (v : Nat) (hs : s.Inv) : (s.takeInterrupt v).Inv := by
  obtain ⟨hpmem, hdmem, hterm, hlcd, hpc, -⟩ := hs
  exact ⟨hpmem, hdmem, hterm, hlcd, fitPc_fitPc _ _, hpc⟩

/-! ### Vectors 8h to Eh -/

/-- Every source of requests has a vector below 8h or Fh (60_exceptions.md R261). -/
theorem raise_noUnwiredRequest {s : State} {v : Nat} (hv : v ≤ 7 ∨ v = 15) (hs : noUnwiredRequest s) :
    noUnwiredRequest (s.raise v) := by
  intro u hlow hhigh
  rw [raise_ip_other s (by omega) (by omega)]
  exact hs u hlow hhigh

theorem button_vector_le (b : Button) : b.vector ≤ 6 := by cases b <;> decide

theorem hostReset_noUnwiredRequest (s : State) : noUnwiredRequest s.hostReset := fun _ _ _ => BitVec.getLsbD_zero

theorem applyEvent_noUnwiredRequest {s : State} (e : HostEvent) (hs : noUnwiredRequest s) :
    noUnwiredRequest (s.applyEvent e) := by
  cases e with
  | button b => exact raise_noUnwiredRequest (.inl (by have := button_vector_le b; omega)) hs
  | key code => exact raise_noUnwiredRequest (s := s.setDev _) (.inl (by decide)) hs
  | switch i up | accel x y z => exact hs
  | tick =>
    rw [State.applyEvent, State.timerTick]
    split
    · exact raise_noUnwiredRequest (s := s.setDev _) (.inr rfl) hs
    · exact hs
  | reset => exact hostReset_noUnwiredRequest s

theorem deliver_noUnwiredRequest {s : State} (hs : noUnwiredRequest s) : noUnwiredRequest s.deliver :=
  State.deliver_induction (P := noUnwiredRequest) (fun _ => hs) hs fun _ e => applyEvent_noUnwiredRequest e

/-- An entry consumes its own request and raises none. -/
theorem takeInterrupt_noUnwiredRequest {s : State} (v : Nat) (hs : noUnwiredRequest s) :
    noUnwiredRequest (s.takeInterrupt v) := by
  intro u hlow hhigh
  simp [hs u hlow hhigh]

theorem accepted_requested {s : State} {v : Nat} (h : s.accepted = some v) :
    s.ds = none ∧ v < 16 ∧ s.ip.getLsbD v = true ∧ s.re.e = true ∧ s.im.getLsbD v = true := by
  obtain ⟨hds, hmem⟩ := State.accepted_some h
  obtain ⟨hv, htake⟩ := State.mem_candidates.1 hmem
  simp only [State.takeable, State.enabled, Bool.and_eq_true] at htake
  exact ⟨hds, hv, htake⟩

end Sys2Proof.Proofs.Invariants

namespace Sys2Proof.Proofs
open Machine Claims Effects Invariants

/-- Settles O58. -/
theorem invariantAtReset : Obligations.InvariantAtReset := by
  unfold Obligations.InvariantAtReset
  obtain ⟨hterm, hlcd⟩ := initial_inForm
  exact ⟨⟨Memory.nil_wf, Memory.nil_wf, hterm, hlcd, rfl, rfl⟩, fun _ _ _ => BitVec.getLsbD_zero⟩

/-- Settles O59: the events of the boundary keep the invariant, and so does the entry or the instruction after them. -/
theorem stepKeepsInvariant : Obligations.StepKeepsInvariant := by
  unfold Obligations.StepKeepsInvariant
  intro s t hs h
  rcases step_next h with ⟨v, -, rfl⟩ | ⟨-, w, i, -, -, he⟩
  · exact takeInterrupt_Inv v (deliver_Inv hs)
  · exact Inv_of_effect (exec_effect he) (deliver_Inv hs)

/-- Settles O60: an instruction changes no pending bit, and the request taken is one of those pending. -/
theorem unwiredVectorsStayClear : Obligations.UnwiredVectorsStayClear := by
  unfold Obligations.UnwiredVectorsStayClear
  intro s t hs h
  have hd := deliver_noUnwiredRequest hs
  refine ⟨?kept, fun v hv => ?entry⟩
  case kept =>
    rcases step_next h with ⟨v, -, rfl⟩ | ⟨-, w, i, -, -, he⟩
    · exact takeInterrupt_noUnwiredRequest v hd
    · obtain ⟨hip, -⟩ := (exec_effect he).keeps
      unfold noUnwiredRequest
      rwa [hip]
  case entry =>
    obtain ⟨-, hlt, hip, -⟩ := accepted_requested hv
    by_contra hunwired
    have hclear := hd v (by omega) (by omega)
    exact absurd (hip.symm.trans hclear) nofun

end Sys2Proof.Proofs
end

section
/-! The jumps and RTI (43_control.md R202 to R208): each advances and then sends control to its target, in the
vocabulary of the statements by `advance_goTo_eq_sentTo`. -/

namespace Sys2Proof.Proofs.Control
open Machine Claims Successor Stepping

/-! ### A change of control -/

theorem hasSlot_iff (s : State) (k : Config.ControlKind) : s.hasSlot k = true ↔ k ∈ s.params.delaySlotSet := by
  rw [State.hasSlot, List.contains_iff_mem]

/-- A change of control in the vocabulary of the statements. -/
theorem advance_goTo_eq_sentTo (s : State) (k : Config.ControlKind) (a : Word) (h : s.ds = none) :
    s.advance.goTo (s.hasSlot k) a = sentTo s k a := by
  unfold sentTo
  have hnext : nextPc s = inPc s (s.pc + 1) := by rw [nextPc, h]
  rw [advance_eq, hnext]
  split
  · next hmem =>
    rw [(hasSlot_iff s k).2 hmem]
    rfl
  · next hmem =>
    have hslot : s.hasSlot k = false := by rw [← Bool.not_eq_true, hasSlot_iff]; exact hmem
    rw [hslot, ← fitPc_eq_inPc s a]
    rfl

/-- Outside a slot an instruction that only advances leaves nothing pending, as it found it. -/
theorem advance_of_none {s : State} (h : s.ds = none) : s.advance = { s with pc := inPc s (s.pc + 1) } := by
  rw [advance_eq]
  simp only [nextPc, h]

/-! ### Conditions and targets -/

theorem condHolds_iff (k : Cond) (f : Flags) : condHolds k f = true ↔ holds k f := by
  cases k <;> simp [condHolds, holds]

/-- The target of a relative jump, computed on integers. -/
theorem relTarget_eq (s : State) (d : BitVec 8) : s.relTarget d = BitVec.ofInt 16 (s.pc.toNat + d.toInt) := by
  rw [State.relTarget, BitVec.ofInt_add, BitVec.ofInt_natCast, BitVec.ofNat_toNat, BitVec.setWidth_eq]
  rfl

theorem link_eq (s : State) :
    s.link = inPc s (s.pc + (match s.params.linkOffset with | .one => 1 | .two => 2)) := by
  rw [State.link, fitPc_eq_inPc]
  cases s.params.linkOffset <;> rfl

/-! ### The jumps -/

section
variable {s : State} (h : s.ds = none)
include h

theorem exec_br_sent (d : BitVec 8) : exec (.br d) s = .next (sentTo s .br (s.relTarget d)) := by
  rw [exec_br, State.control_of_none _ h, advance_goTo_eq_sentTo s _ _ h]

theorem exec_jmp_sent (r : Reg) : exec (.jmp r) s = .next (sentTo s .jmp (s.reg r)) := by
  rw [exec_jmp, State.control_of_none _ h, advance_goTo_eq_sentTo s _ _ h]

theorem exec_jal_sent (r : Reg) : exec (.jal r) s = .next (sentTo (s.setReg .r7 s.link) .jal (s.reg r)) := by
  rw [exec_jal, State.control_of_none _ h]
  exact congrArg Host.Outcome.next (advance_goTo_eq_sentTo (s.setReg .r7 s.link) _ _ h)

theorem exec_brWhen (k : Cond) (d : BitVec 8) :
    exec (brWhen k d) s = .next (if condHolds k s.re then sentTo s .brCond (s.relTarget d) else s.advance) := by
  have hexec : exec (brWhen k d) s = s.branchIf k d := by cases k <;> rfl
  rw [hexec, State.branchIf, State.control_of_none _ h, advance_goTo_eq_sentTo s _ _ h]

theorem exec_jmpWhen (k : Cond) (r : Reg) :
    exec (jmpWhen k r) s = .next (if condHolds k s.re then sentTo s .jmpCond (s.reg r) else s.advance) := by
  have hexec : exec (jmpWhen k r) s = s.jumpIf k r := by cases k <;> rfl
  rw [hexec, State.jumpIf, State.control_of_none _ h, advance_goTo_eq_sentTo s _ _ h]

theorem exec_jalWhen (k : Cond) (r : Reg) :
    exec (jalWhen k r) s =
      .next (if condHolds k s.re then sentTo (s.setReg .r7 s.link) .jalCond (s.reg r) else s.advance) := by
  have hexec : exec (jalWhen k r) s = s.callIf k r := by cases k <;> rfl
  have hgo : (s.advance.setReg .r7 s.link).goTo (s.hasSlot .jalCond) (s.reg r) =
      sentTo (s.setReg .r7 s.link) .jalCond (s.reg r) := advance_goTo_eq_sentTo (s.setReg .r7 s.link) _ _ h
  rw [hexec, State.callIf, State.control_of_none _ h, hgo]

end

/-! ### RTI -/

theorem exec_rti_next {s : State} (h : s.ds = none) :
    exec .rti s = .next (sentTo { s with re := s.reE } .rti s.pcE) := by
  rw [exec_rti, State.control_of_none _ h, State.leave_eq]
  exact congrArg Host.Outcome.next (advance_goTo_eq_sentTo { s with re := s.reE } .rti s.pcE h)

/-- Where RTI has no slot it acts at once. -/
theorem exec_rti_at_once {s : State} (h : s.ds = none) (hslot : .rti ∉ s.params.delaySlotSet) :
    exec .rti s = .next { s with pc := inPc s s.pcE, re := s.reE } := by
  rw [exec_rti_next h, sentTo, if_neg hslot, ← h]
  rfl

/-- What a conditional jump goes on to, by whether its condition holds. -/
theorem next_if_cond (k : Cond) (s taken : State) (h : s.ds = none) :
    (holds k s.re → Host.Outcome.next (φ := Fault) (ρ := Refusal) (if condHolds k s.re then taken else s.advance) =
      .next taken) ∧
    (¬holds k s.re → Host.Outcome.next (φ := Fault) (ρ := Refusal) (if condHolds k s.re then taken else s.advance) =
      .next { s with pc := inPc s (s.pc + 1) }) := by
  rw [← condHolds_iff, ← advance_of_none h]
  exact ⟨fun hk => by rw [if_pos hk], fun hk => by rw [if_neg hk]⟩

end Sys2Proof.Proofs.Control

namespace Sys2Proof.Proofs
open Machine Claims Control

/-- Settles O23. -/
theorem relativeJumps : Obligations.RelativeJumps := by
  unfold Obligations.RelativeJumps
  intro s d h target
  have htarget : s.relTarget d = target := relTarget_eq s d
  refine ⟨by rw [exec_br_sent h, htarget], fun k => ?_⟩
  rw [exec_brWhen h, htarget]
  exact next_if_cond k s _ h

/-- Settles O24. -/
theorem absoluteJumps : Obligations.AbsoluteJumps := by
  unfold Obligations.AbsoluteJumps
  intro s r h
  refine ⟨exec_jmp_sent h r, fun k => ?_⟩
  rw [exec_jmpWhen h]
  exact next_if_cond k s _ h

/-- Settles O25: the link is written before the change of control, whose target was read before it. -/
theorem calls : Obligations.Calls := by
  unfold Obligations.Calls
  intro s r h link linked
  have hlinked : s.setReg .r7 s.link = linked := by
    rw [link_eq]
    rfl
  refine ⟨by rw [exec_jal_sent h, hlinked], fun k => ?_⟩
  rw [exec_jalWhen h, hlinked]
  exact next_if_cond k s _ h

/-- Settles O27. -/
theorem returnFromInterrupt : Obligations.ReturnFromInterrupt := by
  unfold Obligations.ReturnFromInterrupt
  exact fun s h => ⟨exec_rti_next h, exec_rti_at_once h⟩

end Sys2Proof.Proofs
end

section
/-! Interrupts (60_exceptions.md): which request is taken, what an entry saves and where it goes, and that RTI undoes
it; with them INT, the entry a program asks for (43_control.md R209). -/

namespace Sys2Proof.Proofs.Interrupts
open Machine Claims Successor Stepping Events Effects Invariants Control

/-! ### Acceptance -/

/-- Where no request is taken outside a slot, no vector has IP, IM and E all 1. -/
theorem unaccepted {s : State} (h : s.accepted = none) :
    s.ds ≠ none ∨ s.re.e = false ∨ ∀ v, v < 16 → ¬(s.ip.getLsbD v = true ∧ s.im.getLsbD v = true) := by
  rcases State.accepted_none h with hds | hempty
  · exact .inl hds
  · refine .inr ?_
    cases he : s.re.e with
    | false => exact .inl rfl
    | true =>
      refine .inr fun v hv ⟨hip, him⟩ => ?_
      have hmem : v ∈ s.candidates :=
        State.mem_candidates.2 ⟨hv, by simp only [State.takeable, State.enabled, hip, him, he, Bool.and_self]⟩
      rw [hempty] at hmem
      exact absurd hmem List.not_mem_nil

/-! ### Handler addresses -/

theorem handlerAddress_toNat {v : Nat} (hv : v < 16) : (handlerAddress v).toNat = 0x7F00 + 16 * v := by
  have hshift : (BitVec.ofNat 16 v <<< 4).toNat = 16 * v := by
    rw [BitVec.toNat_shiftLeft, BitVec.toNat_ofNat, Nat.shiftLeft_eq]
    omega
  rw [handlerAddress, BitVec.toNat_add, hshift]
  show (0x7F00 + 16 * v) % 65536 = _
  omega

theorem softwareHandler_toNat (k : BitVec 8) : (intBase + k.setWidth 16).toNat = 0x7F00 + k.toNat := by
  have hk := k.isLt
  rw [BitVec.toNat_add, BitVec.toNat_setWidth]
  show (0x7F00 + k.toNat % 65536) % 65536 = _
  omega

/-- The addresses of the routines are positions, so every width of pc holds them. -/
theorem fitPc_of_lt {a : Word} (h : a.toNat < 32768) (width : Config.PcWidth) : fitPc width a = a := by
  apply BitVec.eq_of_toNat_eq
  rw [fitPc_toNat]
  cases width with
  | bits15 => exact Nat.mod_eq_of_lt h
  | bits16 => rfl

theorem fitPc_handlerAddress {v : Nat} (hv : v < 16) (width : Config.PcWidth) :
    fitPc width (handlerAddress v) = handlerAddress v :=
  fitPc_of_lt (by rw [handlerAddress_toNat hv]; omega) width

theorem fitPc_softwareHandler (k : BitVec 8) (width : Config.PcWidth) :
    fitPc width (intBase + k.setWidth 16) = intBase + k.setWidth 16 :=
  fitPc_of_lt (by have := k.isLt; rw [softwareHandler_toNat]; omega) width

theorem position_toNat (a : Word) : position a = a.toNat % 32768 := by
  rw [position, BitVec.toNat_setWidth]

theorem position_handlerAddress_add {v n : Nat} (hv : v < 16) (hn : n < 16) :
    position (handlerAddress v + BitVec.ofNat 16 n) = 0x7F00 + 16 * v + n := by
  rw [position_toNat, BitVec.toNat_add, handlerAddress_toNat hv, BitVec.toNat_ofNat]
  omega

/-! ### Hardware entries -/

theorem takeInterrupt_pc {s : State} {v : Nat} (h : s.accepted = some v) :
    (s.takeInterrupt v).pc = handlerAddress v := by
  obtain ⟨-, hv, -⟩ := accepted_requested h
  simp [fitPc_handlerAddress hv]

theorem takeInterrupt_ds {s : State} {v : Nat} (h : s.accepted = some v) : (s.takeInterrupt v).ds = none := by
  obtain ⟨hds, -⟩ := accepted_requested h
  simp [hds]

/-! ### INT -/

/-- What INT does, outside a slot. -/
theorem exec_int_next {s : State} (k : BitVec 8) (h : s.ds = none) :
    exec (.int k) s = .next (s.advance.enter s.advance.pc (s.hasSlot .int) (intBase + k.setWidth 16)) := by
  rw [exec_int, State.control_of_none _ h]

/-- pc and ds after an entry are those of a change of control to the routine. -/
theorem enter_pc_ds (s : State) (ret : Word) (slot : Bool) (a : Word) :
    (s.enter ret slot a).pc = (s.goTo slot a).pc ∧ (s.enter ret slot a).ds = (s.goTo slot a).ds := by
  cases slot <;> exact ⟨rfl, rfl⟩

/-- INT sends control to its routine. -/
theorem int_pc_ds {s : State} (k : BitVec 8) (h : s.ds = none) :
    let t := s.advance.enter s.advance.pc (s.hasSlot .int) (intBase + k.setWidth 16)
    t.pc = (sentTo s .int (intBase + k.setWidth 16)).pc ∧ t.ds = (sentTo s .int (intBase + k.setWidth 16)).ds := by
  rw [← advance_goTo_eq_sentTo s .int _ h]
  exact enter_pc_ds _ _ _ _

/-- Where INT has no slot it acts at once. -/
theorem sentTo_int_at_once {s : State} (k : BitVec 8) (hslot : .int ∉ s.params.delaySlotSet) :
    (sentTo s .int (intBase + k.setWidth 16)).pc = intBase + k.setWidth 16 ∧
      (sentTo s .int (intBase + k.setWidth 16)).ds = none := by
  rw [sentTo, if_neg hslot, ← fitPc_eq_inPc, fitPc_softwareHandler]
  exact ⟨rfl, rfl⟩

theorem sentTo_int_pending {s : State} (k : BitVec 8) (hslot : .int ∈ s.params.delaySlotSet) :
    (sentTo s .int (intBase + k.setWidth 16)).ds = some (intBase + k.setWidth 16) := by
  rw [sentTo, if_pos hslot]

theorem softwareHandler_eq (k : BitVec 8) : intBase + k.setWidth 16 = BitVec.ofNat 16 (0x7F00 + k.toNat) := by
  rw [← softwareHandler_toNat, BitVec.ofNat_toNat, BitVec.setWidth_eq]

/-! ### The return -/

/-- RTI resumes at PC_E, at once or after its slot, with the status bits of RE_E. -/
theorem rti_resumes {u : State} (h : u.ds = none) (hfits : fitPc u.params.pcWidth u.pcE = u.pcE) :
    ∃ w, exec .rti u = .next w ∧
      (if .rti ∈ u.params.delaySlotSet then w.ds = some u.pcE else w.pc = u.pcE ∧ w.ds = none) ∧ w.re = u.reE := by
  refine ⟨_, exec_rti_next h, ?_, ?_⟩
  · unfold sentTo
    split
    · rfl
    · exact ⟨(fitPc_eq_inPc u u.pcE).symm.trans hfits, rfl⟩
  · unfold sentTo
    split <;> rfl

/-- The width of pc holds the pc that the events of the boundary leave: a Reset writes one, and nothing else does. -/
theorem deliver_pc_fits {s : State} (hs : fitPc s.params.pcWidth s.pc = s.pc) :
    fitPc s.params.pcWidth s.deliver.pc = s.deliver.pc := by
  have hboth : fitPc s.deliver.params.pcWidth s.deliver.pc = s.deliver.pc := by
    refine State.deliver_induction (P := fun u => fitPc u.params.pcWidth u.pc = u.pc) (fun _ => hs) hs fun u e hu => ?_
    rw [u.applyEvent_params e]
    cases e with
    | button b => rw [State.applyEvent, raise_eq]; exact hu
    | key code => rw [State.applyEvent, raise_eq]; exact hu
    | tick => rw [State.applyEvent, timerTick_eq]; exact hu
    | switch i up | accel x y z => exact hu
    | reset => exact fitPc_fitPc _ _
  rwa [s.deliver_params] at hboth

end Sys2Proof.Proofs.Interrupts

namespace Sys2Proof.Proofs
open Machine Claims Successor Stepping Events Invariants Control Interrupts

/-- Settles O50. -/
theorem acceptance : Obligations.Acceptance := by
  unfold Obligations.Acceptance
  refine fun s => ⟨fun v hv => ?_, unaccepted⟩
  obtain ⟨hds, hlt, hip, he, him⟩ := accepted_requested hv
  exact ⟨hds, he, hlt, hip, him⟩

/-- Settles O51. -/
theorem hardwareEntry : Obligations.HardwareEntry := by
  unfold Obligations.HardwareEntry
  intro s v hv
  obtain ⟨-, hlt, -⟩ := accepted_requested hv
  refine ⟨_, step_of_accepted hv, rfl, rfl, rfl, ?pc, takeInterrupt_ds hv, ?requests, rfl, fun r => by simp,
    fun _ => rfl, s.deliver_pmem, rfl⟩
  case pc => rw [takeInterrupt_pc hv, handlerAddress_toNat hlt]
  case requests => exact getLsbD_and_not_one_shift s.deliver.ip hlt

/-- Settles O53. -/
theorem handlerAddresses : Obligations.HandlerAddresses := by
  unfold Obligations.HandlerAddresses
  refine ⟨fun v u hv hu => ⟨handlerAddress_toNat hv, fun hne n hn m hm => ?apart⟩,
    fun s v hv => ⟨_, step_of_accepted hv, takeInterrupt_pc hv⟩, fun s k h => ⟨_, exec_int_next k h, ?software⟩⟩
  case apart =>
    rw [position_handlerAddress_add hv hn, position_handlerAddress_add hu hm]
    omega
  case software =>
    obtain ⟨hpc, hds⟩ := int_pc_ds k h
    split
    · next hslot => rw [hds, sentTo_int_pending k hslot, Option.map_some, softwareHandler_toNat]
    · next hslot => rw [hpc, (sentTo_int_at_once k hslot).1, softwareHandler_toNat]

/-- Settles O26. -/
theorem softwareInterrupt : Obligations.SoftwareInterrupt := by
  unfold Obligations.SoftwareInterrupt
  intro s k h
  obtain ⟨hpc, hds⟩ := int_pc_ds k h
  refine ⟨_, exec_int_next k h, ?link, by simp, by simp [entryFlags], ?target, fun hslot => ?atOnce, by simp, by simp,
    by simp, by simp, by simp, by simp⟩
  case link => rw [State.advance_pc_of_none h, fitPc_eq_inPc]; simp
  case target => rw [hpc, hds, softwareHandler_eq]
  case atOnce =>
    obtain ⟨hpc', hds'⟩ := sentTo_int_at_once k hslot
    exact ⟨by rw [hpc, hpc', softwareHandler_toNat], hds.trans hds'⟩

/-- Settles O52: the address saved is one that the width of pc holds, so that `rti_resumes` gives it back whole. -/
theorem returnResumes : Obligations.ReturnResumes := by
  unfold Obligations.ReturnResumes
  intro s t u hpcE hreE hds hparams hfits resumes
  rw [← fitPc_eq_inPc] at hfits
  have hrti (hsaved : fitPc s.params.pcWidth t.pcE = t.pcE) :
      ∃ w, exec .rti u = .next w ∧ resumes w t.pcE ∧ w.re = t.reE := by
    have h := rti_resumes hds (by rw [hparams, hpcE, hsaved])
    rwa [hparams, hpcE, hreE] at h
  refine ⟨fun v hv ht => ?hardware, fun k ht => ?software⟩
  case hardware =>
    obtain ⟨-, -, -, he, -⟩ := accepted_requested hv
    obtain rfl := Host.Outcome.next.inj ((step_of_accepted hv).symm.trans ht)
    obtain ⟨w, hw, hresumes, hre⟩ := hrti (deliver_pc_fits hfits)
    exact ⟨w, hw, hresumes, hre, (congrArg Flags.e hre).trans he⟩
  case software =>
    have hnone : s.ds = none := (State.control_next ((exec_int s k).symm.trans ht)).1
    obtain rfl := Host.Outcome.next.inj ((exec_int_next k hnone).symm.trans ht)
    have hsaved : (s.advance.enter s.advance.pc (s.hasSlot .int) (intBase + k.setWidth 16)).pcE =
        inPc s (s.pc + 1) := by
      rw [← fitPc_eq_inPc, ← State.advance_pc_of_none hnone]
      simp
    rw [hsaved] at hrti
    obtain ⟨w, hw, hresumes, hre⟩ := hrti (by rw [← fitPc_eq_inPc, fitPc_fitPc])
    exact ⟨w, hw, hresumes, by rw [hre]; simp⟩

end Sys2Proof.Proofs
end

section
/-! What the flags of CMP say, and 32-bit arithmetic (40_arithmetic.md R159, R160.6): the adder's result and carry are
the exact sum, so that two such steps in a row, the second with the carry of the first, are the exact 32-bit sum. -/

namespace Sys2Proof.Proofs.WideArithmetic
open Machine Claims Successor Equivalences Arithmetic Mask

/-! ### The signed comparison -/

/-- The sign of the difference, read against its overflow, is that of the exact difference. -/
theorem sub_sign_xor_overflow (x y : Word) :
    ((x - y).getLsbD 15 ^^ subOverflows x y (x - y)) = true ↔ x.toInt < y.toInt := by
  have hx := x.isLt
  have hy := y.isLt
  have hr : (x - y).toNat = (65536 - y.toNat + x.toNat) % 65536 := BitVec.toNat_sub x y
  rw [subOverflows, sign_eq, sign_eq, sign_eq, toInt_eq_sign, toInt_eq_sign, hr]
  by_cases hxs : 32768 ≤ x.toNat <;> by_cases hys : 32768 ≤ y.toNat <;> simp [hxs, hys] <;> omega

/-! ### Exact steps -/

/-- The sum and its carry are the exact sum of the unsigned values. -/
theorem addCore_exact (x y : Word) (cin : Bool) :
    (addCore x y cin).r.toNat + 65536 * (addCore x y cin).c.toNat = x.toNat + y.toNat + cin.toNat := by
  have hx := x.isLt
  have hy := y.isLt
  have hcin : cin.toNat ≤ 1 := Bool.toNat_le cin
  have hr : (addCore x y cin).r.toNat = (x.toNat + y.toNat + cin.toNat) % 65536 := by
    rw [addCore_r, BitVec.toNat_add, BitVec.toNat_add, BitVec.toNat_ofNat]
    omega
  have hc := addCore_c x y cin
  cases hcarry : (addCore x y cin).c
  · have hno : x.toNat + y.toNat + cin.toNat < 65536 := by simpa [hcarry] using hc
    rw [hr, Bool.toNat_false]
    omega
  · have hcarried : 65536 ≤ x.toNat + y.toNat + cin.toNat := hc.1 hcarry
    rw [hr, Bool.toNat_true]
    omega

theorem subCore_exact (x y : Word) (cin : Bool) :
    (subCore x y cin).r.toNat + 65536 * (subCore x y cin).c.toNat = x.toNat + (65535 - y.toNat) + cin.toNat := by
  rw [subCore, addCore_exact, BitVec.toNat_not]

theorem toNat_eq_one_iff (b : Bool) : b = true ↔ b.toNat = 1 := by cases b <;> decide

/-! ### Two steps -/

section
variable (ah al bh bl : Word)

/-- The low sum, with no carry in. -/
def lowSum : Sum := addCore al bl false

/-- The high sum, with the carry of the low one. -/
def highSum : Sum := addCore ah bh (lowSum al bl).c

theorem wide_add :
    wide (highSum ah al bh bl).r (lowSum al bl).r = (wide ah al + wide bh bl) % 4294967296 ∧
      ((highSum ah al bh bl).c = true ↔ 4294967296 ≤ wide ah al + wide bh bl) := by
  have hlow := addCore_exact al bl false
  have hhigh := addCore_exact ah bh (addCore al bl false).c
  have hlt := (addCore al bl false).r.isLt
  have hlt' := (addCore ah bh (addCore al bl false).c).r.isLt
  rw [toNat_eq_one_iff]
  simp only [wide, highSum, lowSum]
  rw [Bool.toNat_false] at hlow
  omega

theorem wide_add_overflow :
    (highSum ah al bh bl).o = true ↔
      wideInt ah al + wideInt bh bl < -2147483648 ∨ 2147483647 < wideInt ah al + wideInt bh bl := by
  have hlow := addCore_exact al bl false
  have hlt := (addCore al bl false).r.isLt
  rw [Bool.toNat_false] at hlow
  rw [highSum, lowSum, addCore_o, wideInt, wideInt]
  omega

/-- The low difference, with no borrow in. -/
def lowDiff : Sum := subCore al bl true

/-- The high difference, with the borrow of the low one. -/
def highDiff : Sum := subCore ah bh (lowDiff al bl).c

theorem wide_sub :
    wide (highDiff ah al bh bl).r (lowDiff al bl).r = (wide ah al + 4294967296 - wide bh bl) % 4294967296 ∧
      ((highDiff ah al bh bl).c = true ↔ wide bh bl ≤ wide ah al) := by
  have hlow := subCore_exact al bl true
  have hhigh := subCore_exact ah bh (subCore al bl true).c
  have hlt := (subCore al bl true).r.isLt
  have hlt' := (subCore ah bh (subCore al bl true).c).r.isLt
  have hal := al.isLt
  have hbl := bl.isLt
  have hah := ah.isLt
  have hbh := bh.isLt
  rw [toNat_eq_one_iff]
  simp only [wide, highDiff, lowDiff]
  rw [Bool.toNat_true] at hlow
  omega

end

/-! ### The instructions -/

theorem reg_writes_other (s : State) {d q : Reg} (r : Word) (f : Flags) (hq : q ≠ d) :
    (writes s d r f).reg q = s.reg q := by
  rw [← advance_setReg_setRe, State.setRe_reg, State.reg_setReg_other _ _ _ _ hq, State.advance_reg]

theorem subC_of_carryOut {s : State} (h : s.params.subCarry = .carryOut) (c : Bool) : subC s c = c := by
  rw [subC, h]

/-- Two instructions in a row that write two registers: both results stand, with the status bits of the second. -/
theorem runAll_writes {i j : Instr} {s : State} {d e : Reg} {v w : Word} {f g : Flags} (hd : d ≠ .r0) (he : e ≠ .r0)
    (hde : d ≠ e) (hi : exec i s = .next (writes s d v f))
    (hj : exec j (writes s d v f) = .next (writes (writes s d v f) e w g)) :
    ∃ t, runAll [i, j] s = .next t ∧ t.reg d = v ∧ t.reg e = w ∧ t.re = g :=
  ⟨_, runAll_pair hi hj, by rw [reg_writes_other _ _ _ hde, reg_writes_same _ _ _ hd], reg_writes_same _ _ _ he, rfl⟩

section
variable {s : State} {dl al bl dh ah bh : Reg} (hdl : dl ≠ .r0) (hdh : dh ≠ .r0) (hd : dl ≠ dh) (hah : ah ≠ dl)
  (hbh : bh ≠ dl)
include hdl hdh hd hah hbh

theorem runAll_add_addc :
    ∃ t, runAll [.add dl al bl, .addc dh ah bh] s = .next t ∧ t.reg dl = (lowSum (s.reg al) (s.reg bl)).r ∧
      t.reg dh = (highSum (s.reg ah) (s.reg al) (s.reg bh) (s.reg bl)).r ∧
      t.re.c = (highSum (s.reg ah) (s.reg al) (s.reg bh) (s.reg bl)).c ∧
      t.re.o = (highSum (s.reg ah) (s.reg al) (s.reg bh) (s.reg bl)).o := by
  have hlow := (exec_add s dl al bl).trans (congrArg _ (advance_putSum s dl _))
  obtain ⟨t, ht, hlo, hhi, hre⟩ := runAll_writes hdl hdh hd hlow
    ((exec_addc _ dh ah bh).trans (congrArg _ (advance_putSum _ dh _)))
  rw [reg_writes_other _ _ _ hah, reg_writes_other _ _ _ hbh] at hhi hre
  exact ⟨t, ht, hlo, hhi, congrArg Flags.c hre, congrArg Flags.o hre⟩

/-- Under carry_out the flag C that SUBB reads is the adder's carry. -/
theorem runAll_sub_subb (hcarry : s.params.subCarry = .carryOut) :
    ∃ t, runAll [.sub dl al bl, .subb dh ah bh] s = .next t ∧ t.reg dl = (lowDiff (s.reg al) (s.reg bl)).r ∧
      t.reg dh = (highDiff (s.reg ah) (s.reg al) (s.reg bh) (s.reg bl)).r ∧
      t.re.c = (highDiff (s.reg ah) (s.reg al) (s.reg bh) (s.reg bl)).c := by
  have hlow := (exec_sub s dl al bl).trans (congrArg _ (advance_putDiff s dl _))
  rw [subC_of_carryOut hcarry] at hlow
  obtain ⟨t, ht, hlo, hhi, hre⟩ := runAll_writes hdl hdh hd hlow
    ((exec_subb _ dh ah bh).trans (congrArg _ (advance_putDiff _ dh _)))
  rw [subC_of_carryOut (s := writes s dl _ _) hcarry] at hre
  rw [reg_writes_other _ _ _ hah, reg_writes_other _ _ _ hbh] at hhi hre
  exact ⟨t, ht, hlo, hhi, congrArg Flags.c hre⟩

end

end Sys2Proof.Proofs.WideArithmetic

namespace Sys2Proof.Proofs
open Machine Claims Successor Equivalences Arithmetic WideArithmetic

/-- Settles O16: CMP leaves the flags of the difference, which `sub_sign_xor_overflow` reads as signed. -/
theorem compareFlags : Obligations.CompareFlags := by
  unfold Obligations.CompareFlags
  intro s a b hcarry
  refine ⟨_, (exec_cmp_eq_sub_r0 s a b).trans (exec_sub_writes s .r0 a b), ?z, ?c, sub_sign_xor_overflow _ _⟩
  case z =>
    show decide (s.reg a - s.reg b = 0) = true ↔ _
    rw [decide_eq_true_eq]
    exact sub_eq_zero
  case c =>
    show subC s _ = true ↔ _
    rw [subC_of_carryOut hcarry, fits, decide_eq_true_eq, Nat.add_zero]

/-- Settles O18: two steps of the adder, of which `wide_add` and `wide_sub` give the exact 32-bit value. -/
theorem wideArithmetic : Obligations.WideArithmetic := by
  unfold Obligations.WideArithmetic
  intro s dl al bl dh ah bh hdl hdh hd hah hbh
  refine ⟨?add, fun hcarry => ?sub⟩
  case add =>
    obtain ⟨t, ht, hlo, hhi, hc, ho⟩ := runAll_add_addc hdl hdh hd hah hbh
    obtain ⟨hvalue, hcarry⟩ := wide_add (s.reg ah) (s.reg al) (s.reg bh) (s.reg bl)
    exact ⟨t, ht, by rw [hlo, hhi, hvalue], by rw [hc, hcarry], by rw [ho, wide_add_overflow]⟩
  case sub =>
    obtain ⟨t, ht, hlo, hhi, hc⟩ := runAll_sub_subb hdl hdh hd hah hbh hcarry
    obtain ⟨hvalue, hborrow⟩ := wide_sub (s.reg ah) (s.reg al) (s.reg bh) (s.reg bl)
    exact ⟨t, ht, by rw [hlo, hhi, hvalue], by rw [hc, hborrow]⟩

end Sys2Proof.Proofs
end

section
/-! The arithmetic shifts, and rotation through C (42_shift.md R183, R184, R187, R188): doubling and halving on
integers, and a register with C as a ring of 17 bits. -/

namespace Sys2Proof.Proofs.ArithmeticShift
open Machine Claims Successor Arithmetic Shift Mask WideArithmetic

/-! ### Doubling -/

theorem shiftLeft_one_eq_add (v : Word) : v <<< 1 = v + v := by
  apply BitVec.eq_of_toNat_eq
  rw [BitVec.toNat_shiftLeft, BitVec.toNat_add, Nat.shiftLeft_eq]
  omega

/-- The bit shifted out is the carry of the sum. -/
theorem carries_self (v : Word) : carries v v 0 = v.getLsbD 15 := by
  rw [carries, sign_eq, decide_eq_decide]
  omega

/-- The sign changes just where the double does not fit. -/
theorem overflows_self (v : Word) :
    overflows v v (v + v) = decide (2 * v.toInt < -32768 ∨ 32767 < 2 * v.toInt) := by
  have ho := addCore_o v v false
  rw [addCore_false, Bool.toNat_false] at ho
  rw [Bool.eq_iff_iff, decide_eq_true_eq, ho]
  omega

theorem sign_xor_eq_overflows (v r : Word) : (v.msb ^^ r.msb) = overflows v v r := by
  show (v.getLsbD 15 ^^ r.getLsbD 15) = _
  rw [overflows]
  cases v.getLsbD 15 <;> cases r.getLsbD 15 <;> rfl

/-! ### Halving -/

theorem msb_shiftInLeft (b : Bool) (v : Word) : (shiftInLeft b v).msb = b := by
  show (shiftInLeft b v).getLsbD 15 = b
  rw [shiftInLeft_getLsbD, if_pos rfl]

/-- With the sign brought in, the right shift of a signed number. -/
theorem shiftInLeft_msb (v : Word) : shiftInLeft v.msb v = v.sshiftRight 1 := by
  apply BitVec.eq_of_getLsbD_eq
  intro i hi
  rw [shiftInLeft_getLsbD, BitVec.getLsbD_sshiftRight]
  rcases Nat.lt_succ_iff_lt_or_eq.mp hi with kept | rfl
  · simp [kept, kept.ne, Nat.add_comm, show ¬16 ≤ i by omega, show i + 1 < 16 by omega]
  · simp

/-! ### SHRA and SHLA -/

/-- An arithmetic shift written by an instruction that advances: O says whether the sign changed. -/
theorem advance_putShiftArith (s : State) (d : Reg) (v r : Word) (out : Bool) :
    s.advance.putShiftArith d v r out = writes s d r (zcno s.re r out (v.msb ^^ r.msb)) :=
  advance_setReg_setRe s d r _

theorem exec_shra (s : State) (d : Reg) :
    exec (.shra d) s =
      .next (s.advance.putShiftArith d (s.reg d) (shiftInLeft (s.shraFill (s.reg d)) (s.reg d))
        ((s.reg d).getLsbD 0)) := rfl

theorem exec_shla (s : State) (d : Reg) :
    exec (.shla d) s =
      .next (s.advance.putShiftArith d (s.reg d) (shiftInRight (s.reg d) false) ((s.reg d).getLsbD 15)) := rfl

theorem exec_shla_writes (s : State) (d : Reg) :
    exec (.shla d) s =
      .next (writes s d (s.reg d + s.reg d) (zcno s.re (s.reg d + s.reg d) (carries (s.reg d) (s.reg d) 0)
        (overflows (s.reg d) (s.reg d) (s.reg d + s.reg d)))) := by
  rw [exec_shla, advance_putShiftArith, shiftInRight_false, shiftLeft_one_eq_add, sign_xor_eq_overflows, carries_self]

/-! ### The ring of a register and C -/

theorem shiftInRight_shiftInLeft (b : Bool) (v : Word) : shiftInRight (shiftInLeft b v) (v.getLsbD 0) = v := by
  apply BitVec.eq_of_getLsbD_eq
  intro i hi
  rw [shiftInRight_getLsbD]
  cases i with
  | zero => rfl
  | succ i =>
    rw [if_neg (by omega), if_pos hi, shiftInLeft_getLsbD, if_neg (by omega), if_pos (by omega)]
    rfl

theorem shiftInLeft_shiftInRight (b : Bool) (v : Word) : shiftInLeft (v.getLsbD 15) (shiftInRight v b) = v := by
  apply BitVec.eq_of_getLsbD_eq
  intro i hi
  rw [shiftInLeft_getLsbD]
  rcases Nat.lt_succ_iff_lt_or_eq.mp hi with kept | rfl
  · rw [if_neg kept.ne, if_pos kept, shiftInRight_getLsbD, if_neg (by omega), if_pos (by omega)]
    rfl
  · rw [if_pos rfl]

theorem shiftInRight_low (v : Word) (b : Bool) : (shiftInRight v b).getLsbD 0 = b := by
  rw [shiftInRight_getLsbD, if_pos rfl]

/-- A left shift by one on integers: what is lost is the leftmost bit. -/
theorem shiftInRight_toNat (v : Word) (b : Bool) :
    (shiftInRight v b).toNat + 65536 * (v.getLsbD 15).toNat = 2 * v.toNat + b.toNat := by
  have hv := v.isLt
  have hb : b.toNat < 2 ^ 1 := Bool.toNat_lt b
  have hr : (shiftInRight v b).toNat = 2 * (v.toNat % 32768) + b.toNat := by
    rw [shiftInRight, BitVec.toNat_append, BitVec.toNat_ofBool, ← Nat.shiftLeft_add_eq_or_of_lt hb,
      BitVec.extractLsb'_toNat, Nat.shiftRight_zero, Nat.shiftLeft_eq]
    omega
  rw [hr, sign_eq]
  by_cases hsign : 32768 ≤ v.toNat <;> simp [hsign] <;> omega

theorem wide_shiftInRight (hi lo : Word) :
    wide (shiftInRight hi (lo.getLsbD 15)) (shiftInRight lo false) = (2 * wide hi lo) % 4294967296 ∧
      (hi.getLsbD 15 = true ↔ 2147483648 ≤ wide hi lo) := by
  have hlow := shiftInRight_toNat lo false
  have hhigh := shiftInRight_toNat hi (lo.getLsbD 15)
  have hlo := lo.isLt
  have hlo' := (shiftInRight lo false).isLt
  have hhi' := (shiftInRight hi (lo.getLsbD 15)).isLt
  refine ⟨?_, ?_⟩
  · rw [Bool.toNat_false] at hlow
    simp only [wide]
    omega
  · rw [sign_eq, decide_eq_true_eq, wide]
    omega

theorem exec_rorc_writes (s : State) (d : Reg) :
    exec (.rorc d) s = .next (writes s d (shiftInLeft s.re.c (s.reg d))
      (zcn s.re (shiftInLeft s.re.c (s.reg d)) ((s.reg d).getLsbD 0))) := by
  rw [exec_rorc, advance_putShift]

theorem exec_rolc_writes (s : State) (d : Reg) :
    exec (.rolc d) s = .next (writes s d (shiftInRight (s.reg d) s.re.c)
      (zcn s.re (shiftInRight (s.reg d) s.re.c) ((s.reg d).getLsbD 15))) := by
  rw [exec_rolc, advance_putShift]

end Sys2Proof.Proofs.ArithmeticShift

namespace Sys2Proof.Proofs
open Machine Claims Arithmetic Shift Mask WideArithmetic ArithmeticShift

/-- Settles O21: SHLA is the sum of the register with itself, and SHRA brings in 0 or the sign. -/
theorem arithmeticShifts : Obligations.ArithmeticShifts := by
  unfold Obligations.ArithmeticShifts
  intro s d v
  refine ⟨fun hzero => ?zero, fun hsign => ?sign, ?shla, ?add⟩
  case zero =>
    have hfill : s.shraFill (s.reg d) = false := by rw [State.shraFill, hzero]
    have hmsb : (v >>> 1).msb = false := by rw [← shiftInLeft_false, msb_shiftInLeft]
    rw [exec_shra, advance_putShiftArith, hfill, shiftInLeft_false, hmsb, Bool.xor_false]
    rfl
  case sign =>
    have hfill : s.shraFill (s.reg d) = v.msb := by rw [State.shraFill, hsign]
    rw [exec_shra, advance_putShiftArith, hfill, msb_shiftInLeft, shiftInLeft_msb, Bool.xor_self]
  case shla => rw [exec_shla_writes, carries_self, overflows_self, shiftLeft_one_eq_add]
  case add => rw [exec_shla_writes, exec_add, advance_putSum, addCore_false]

/-- Settles O22. -/
theorem rotateThroughCarry : Obligations.RotateThroughCarry := by
  unfold Obligations.RotateThroughCarry
  intro s d lo hd
  refine ⟨⟨_, runAll_pair (exec_rorc_writes s d) (exec_rolc_writes _ d), ?_, ?_⟩,
    ⟨_, runAll_pair (exec_rolc_writes s d) (exec_rorc_writes _ d), ?_, ?_⟩, fun hlo hne => ?wide⟩
  · rw [reg_writes_same _ _ _ hd, reg_writes_same _ _ _ hd]
    exact shiftInRight_shiftInLeft s.re.c (s.reg d)
  · show (State.reg _ d).getLsbD 15 = _
    rw [reg_writes_same _ _ _ hd]
    exact msb_shiftInLeft s.re.c (s.reg d)
  · rw [reg_writes_same _ _ _ hd, reg_writes_same _ _ _ hd]
    exact shiftInLeft_shiftInRight s.re.c (s.reg d)
  · show (State.reg _ d).getLsbD 0 = _
    rw [reg_writes_same _ _ _ hd, shiftInRight_low]
  case wide =>
    have hshl := (exec_shl s lo).trans (congrArg _ (advance_putShift s lo _ _))
    obtain ⟨t, ht, hlow, hhigh, hre⟩ := runAll_writes hlo hd hne.symm hshl (exec_rolc_writes _ d)
    rw [reg_writes_other _ _ _ hne] at hhigh hre
    obtain ⟨hvalue, hcarry⟩ := wide_shiftInRight (s.reg d) (s.reg lo)
    refine ⟨t, ht, ?_, ?_⟩
    · rw [hhigh, hlow]
      exact hvalue
    · rw [hre]
      exact hcarry

end Sys2Proof.Proofs
end

section
/-! The constants of MVI, MVIH and MVIL, what the assembler makes of a wide MVI (44_transfer.md R233 to R235;
35_assembler.md R132), and the register file (10_state.md R21). -/

namespace Sys2Proof.Proofs.Constants
open Machine Claims Successor Transfer Mask Effects WideArithmetic

/-! ### One constant -/

/-- A legal constant is its 9-bit field read as signed. -/
theorem toInt_ofInt_nine {c : Int} (hlow : -128 ≤ c) (hhigh : c ≤ 255) : (BitVec.ofInt 9 c).toInt = c := by
  rw [BitVec.toInt_ofInt]
  exact Int.bmod_eq_of_le (by omega) (by omega)

theorem mvi_wellFormed (d : Reg) {c : Int} (hlow : -128 ≤ c) (hhigh : c ≤ 255) :
    (Instr.mvi d (BitVec.ofInt 9 c)).wellFormed = true := by
  show mviConstOk _ = true
  rw [mviConstOk, toInt_ofInt_nine hlow hhigh, decide_eq_true_eq]
  exact ⟨hlow, hhigh⟩

theorem signExtend_ofInt_nine {c : Int} (hlow : -128 ≤ c) (hhigh : c ≤ 255) :
    (BitVec.ofInt 9 c).signExtend 16 = BitVec.ofInt 16 c := by
  rw [BitVec.signExtend, toInt_ofInt_nine hlow hhigh]

theorem toNat_ofInt_eight (c : Int) : (BitVec.ofInt 8 c).toNat = (c % 256).toNat := BitVec.toNat_ofInt c

/-! ### One byte of a register replaced -/

/-- The word with its high byte replaced, as MVIH computes it. -/
def withHigh (v : Word) (b : Byte) : Word := (v &&& 0x00FF#16) ||| (b.setWidth 16 <<< 8)

/-- The word with its low byte replaced, as MVIL computes it. -/
def withLow (v : Word) (b : Byte) : Word := (v &&& 0xFF00#16) ||| b.setWidth 16

theorem withHigh_eq_append (v : Word) (b : Byte) : withHigh v b = b ++ v.extractLsb' 0 8 := by
  ext i hi
  rw [withHigh, BitVec.getElem_append]
  interval_cases i <;> simp

theorem withLow_eq_append (v : Word) (b : Byte) : withLow v b = v.extractLsb' 8 8 ++ b := by
  ext i hi
  rw [withLow, BitVec.getElem_append]
  interval_cases i <;> simp

theorem append_eq_ofNat (hi lo : Byte) : (hi ++ lo : Word) = BitVec.ofNat 16 (256 * hi.toNat + lo.toNat) := by
  have hhi := hi.isLt
  have hlo := lo.isLt
  apply BitVec.eq_of_toNat_eq
  rw [BitVec.toNat_append, ← Nat.shiftLeft_add_eq_or_of_lt hlo, Nat.shiftLeft_eq, BitVec.toNat_ofNat]
  omega

theorem low_toNat (v : Word) : (v.extractLsb' 0 8).toNat = v.toNat % 256 := by
  rw [BitVec.extractLsb'_toNat, Nat.shiftRight_zero]

theorem high_toNat (v : Word) : (v.extractLsb' 8 8).toNat = v.toNat / 256 := by
  have hv := v.isLt
  rw [BitVec.extractLsb'_toNat, Nat.shiftRight_eq_div_pow]
  omega

/-- Both bytes replaced, in either order, make the word of the two bytes. -/
theorem withLow_withHigh (v : Word) (hi lo : Byte) : withLow (withHigh v hi) lo = hi ++ lo := by
  rw [withLow_eq_append, withHigh_eq_append]
  exact congrArg (· ++ lo) BitVec.extractLsb'_append_eq_left

theorem withHigh_withLow (v : Word) (hi lo : Byte) : withHigh (withLow v lo) hi = hi ++ lo := by
  rw [withHigh_eq_append, withLow_eq_append]
  exact congrArg (hi ++ ·) BitVec.extractLsb'_append_eq_right

/-! ### The instructions -/

section
variable (s : State) (d : Reg)

theorem exec_mvi (c : BitVec 9) : exec (.mvi d c) s = .next (writes s d (c.signExtend 16) s.re) :=
  congrArg Host.Outcome.next (advance_setReg s d _)

theorem exec_mvih (b : Byte) : exec (.mvih d b) s = .next (writes s d (withHigh (s.reg d) b) s.re) :=
  congrArg Host.Outcome.next (advance_setReg s d _)

theorem exec_mvil (b : Byte) : exec (.mvil d b) s = .next (writes s d (withLow (s.reg d) b) s.re) :=
  congrArg Host.Outcome.next (advance_setReg s d _)

/-- Two instructions in a row that write one register and no status bit: the second value stands. -/
theorem runAll_writes_same {i j : Instr} {v w : Word} (hi : exec i s = .next (writes s d v s.re))
    (hj : exec j (writes s d v s.re) = .next (writes (writes s d v s.re) d w s.re)) :
    ∃ t, runAll [i, j] s = .next t ∧ (d ≠ .r0 → t.reg d = w) ∧ (∀ q, q ≠ d → t.reg q = s.reg q) ∧ t.re = s.re :=
  ⟨_, runAll_pair hi hj, fun hd => reg_writes_same _ _ _ hd,
    fun q hq => by rw [reg_writes_other _ _ _ hq, reg_writes_other _ _ _ hq], rfl⟩

/-- The pair of a wide MVI leaves the whole word, in either order. -/
theorem runAll_mviPair (order : Config.MviPairOrder) (w : Word) :
    ∃ t, runAll (mviPair order d w) s = .next t ∧ (d ≠ .r0 → t.reg d = w) ∧ (∀ q, q ≠ d → t.reg q = s.reg q) ∧
      t.re = s.re := by
  cases order with
  | highFirst =>
    obtain ⟨t, ht, hd, hrest⟩ := runAll_writes_same s d (exec_mvih s d (w.extractLsb' 8 8))
      (exec_mvil _ d (w.extractLsb' 0 8))
    refine ⟨t, ht, fun h => ?_, hrest⟩
    rw [hd h, reg_writes_same _ _ _ h, withLow_withHigh, octets_append]
  | lowFirst =>
    obtain ⟨t, ht, hd, hrest⟩ := runAll_writes_same s d (exec_mvil s d (w.extractLsb' 0 8))
      (exec_mvih _ d (w.extractLsb' 8 8))
    refine ⟨t, ht, fun h => ?_, hrest⟩
    rw [hd h, reg_writes_same _ _ _ h, withHigh_withLow, octets_append]

end

/-! ### R0 as the destination -/

theorem memRead_regs (s : State) (a : Word) : (s.memRead a).2.regs = s.regs := by
  rcases s.memRead_cases a with h | h | h <;> simp [h]

/-- A LOAD to R0 reads all the same. -/
theorem exec_load_r0 (s : State) (d x : Reg) :
    ∃ t, exec (.load d x) s = .next t ∧ exec (.load .r0 x) s = .next { t with regs := s.regs } := by
  refine ⟨_, exec_load s d x, (exec_load s .r0 x).trans ?_⟩
  have hregs : (s.advance.memRead (s.reg x)).2.regs = s.regs := memRead_regs _ _
  rw [← hregs]
  rfl

end Sys2Proof.Proofs.Constants

namespace Sys2Proof.Proofs
open Machine Claims Constants

/-- Settles O29. -/
theorem constants : Obligations.Constants := by
  unfold Obligations.Constants
  intro s d c hlow hhigh
  refine ⟨mvi_wellFormed d hlow hhigh, ?mvi, ?mvih, ?mvil⟩
  case mvi => rw [exec_mvi, signExtend_ofInt_nine hlow hhigh]
  case mvih => rw [exec_mvih, withHigh_eq_append, append_eq_ofNat, low_toNat, toNat_ofInt_eight]
  case mvil => rw [exec_mvil, withLow_eq_append, append_eq_ofNat, high_toNat, toNat_ofInt_eight]

/-- Settles O30: one MVI where the constant fits it, else the pair. -/
theorem wideConstant : Obligations.WideConstant := by
  unfold Obligations.WideConstant
  intro order s d c _ _
  unfold expandMvi
  split
  · next hfits =>
    obtain ⟨hlow, hhigh⟩ := hfits
    have hmvi := exec_mvi s d (BitVec.ofInt 9 c)
    rw [signExtend_ofInt_nine hlow hhigh] at hmvi
    exact ⟨_, by rw [runAll, hmvi]; rfl, fun hd => Mask.reg_writes_same _ _ _ hd,
      fun q hq => WideArithmetic.reg_writes_other _ _ _ hq, rfl⟩
  · exact runAll_mviPair s d order (BitVec.ofInt 16 c)

/-- Settles O13: with R0 in place of the destination the same state is left but for the registers, which are kept. -/
theorem registerFile : Obligations.RegisterFile := by
  unfold Obligations.RegisterFile
  intro s d q v
  refine ⟨State.reg_r0 s, State.setReg_r0 s v, State.reg_setReg s d q v, fun a b c into hmem => ?_⟩
  simp only [withDestination, List.mem_cons, List.not_mem_nil, or_false] at hmem
  rcases hmem with rfl | rfl | rfl | rfl | rfl | rfl | rfl | rfl | rfl | rfl
  case inr.inr.inr.inr.inr.inr.inr.inr.inl => exact exec_load_r0 s d a
  all_goals exact ⟨_, rfl, rfl⟩

end Sys2Proof.Proofs
end

section
/-! LOAD and STOR (44_transfer.md R231, R232): below FF00h they reach the position of the low 15 bits of the address, at
FF00h and above only a port (20_memory.md R52 to R55). -/

namespace Sys2Proof.Proofs.DataSpace
open Machine Claims Successor Transfer Mask Effects WideArithmetic Constants Interrupts

/-! ### Below the window -/

theorem inWindow_of_lt {a : Word} (h : a.toNat < 0xFF00) : inWindow a = false := by
  rw [inWindow, decide_eq_false_iff_not]
  omega

theorem inWindow_of_le {a : Word} (h : 0xFF00 ≤ a.toNat) : inWindow a = true := decide_eq_true h

theorem memRead_below (s : State) {a : Word} (h : a.toNat < 0xFF00) :
    s.memRead a = (Memory.word s.dmem (a.toNat % 32768), s) := by
  rw [State.memRead, inWindow_of_lt h, if_neg nofun, position_toNat]

theorem memWrite_below (s : State) {a : Word} (v : Word) (h : a.toNat < 0xFF00) :
    s.memWrite a v = s.setDmem (Memory.setWord s.dmem (a.toNat % 32768) v) := by
  rw [State.memWrite, inWindow_of_lt h, if_neg nofun, position_toNat]

theorem exec_load_below {s : State} (d : Reg) {x : Reg} (h : (s.reg x).toNat < 0xFF00) :
    exec (.load d x) s = .next (writes s d (Memory.word s.dmem ((s.reg x).toNat % 32768)) s.re) := by
  rw [exec_load, memRead_below _ h, advance_setReg, State.advance_dmem]

/-- The state after a STOR to memory. -/
def stored (s : State) (m : List Host.Cell) : State := { s with dmem := m, pc := nextPc s, ds := none }

theorem stored_reg (s : State) (m : List Host.Cell) (q : Reg) : (stored s m).reg q = s.reg q :=
  State.reg_congr rfl q

theorem exec_stor_below {s : State} {x : Reg} (y : Reg) (h : (s.reg x).toNat < 0xFF00) :
    exec (.stor x y) s =
      .next (stored s (Memory.setWord s.dmem ((s.reg x).toNat % 32768) (s.reg y))) := by
  rw [exec_stor, memWrite_below _ _ h, advance_eq]
  rfl

/-- A LOAD right after a STOR returns what was stored where the addresses select one position. -/
theorem runAll_stor_load {s : State} {x z d : Reg} (y : Reg) (hx : (s.reg x).toNat < 0xFF00)
    (hz : (s.reg z).toNat < 0xFF00) (hd : d ≠ .r0) :
    ∃ t, runAll [.stor x y, .load d z] s = .next t ∧
      t.reg d = if (s.reg z).toNat % 32768 = (s.reg x).toNat % 32768 then s.reg y
        else Memory.word s.dmem ((s.reg z).toNat % 32768) := by
  have hz' : ((stored s (Memory.setWord s.dmem ((s.reg x).toNat % 32768) (s.reg y))).reg z).toNat < 0xFF00 := by
    rwa [stored_reg]
  refine ⟨_, runAll_pair (exec_stor_below y hx) (exec_load_below d hz'), ?_⟩
  rw [reg_writes_same _ _ _ hd, stored_reg]
  exact Memory.word_setWord _ _ _ _

/-! ### In the window -/

/-- A read of the data space changes nothing but a device and the count of free values. -/
theorem memRead_keeps (s : State) (a : Word) :
    (s.memRead a).2 = { s with dev := (s.memRead a).2.dev, freeCount := (s.memRead a).2.freeCount } := by
  rcases s.memRead_cases a with h | h | h <;> rw [h] <;> rfl

/-- A write in the window reaches the mask or a device. -/
theorem memWrite_window_keeps (s : State) {a : Word} (v : Word) (h : 0xFF00 ≤ a.toNat) :
    s.memWrite a v = { s with im := (s.memWrite a v).im, dev := (s.memWrite a v).dev } := by
  rcases s.memWrite_cases a v with ⟨hw, -⟩ | ⟨-, -, hm⟩ | ⟨-, -, hm⟩
  · exact absurd ((inWindow_of_le h).symm.trans hw) nofun
  · rw [hm]
    rfl
  · rw [hm]
    rfl

end Sys2Proof.Proofs.DataSpace

namespace Sys2Proof.Proofs
open Machine Claims Transfer Mask Constants Interrupts DataSpace

/-- Settles O31. -/
theorem loadFromMemory : Obligations.LoadFromMemory := by
  unfold Obligations.LoadFromMemory
  exact fun s d x h => exec_load_below d h

/-- Settles O32: one word is written, of which `Memory.octet_setWord` and `Memory.word_setWord` say all. -/
theorem storeToMemory : Obligations.StoreToMemory := by
  unfold Obligations.StoreToMemory
  intro s x y h
  have hstor := exec_stor_below y h
  rw [← position_toNat] at hstor
  refine ⟨_, hstor, position_toNat _, ?low, ?high, fun a hlow hhigh => ?others, ?same, fun k hk => ?words⟩
  case low => rw [Memory.octet_setWord, if_pos rfl, low_toNat]
  case high => rw [Memory.octet_setWord, if_neg (by omega), if_pos rfl, high_toNat]
  case others => rw [Memory.octet_setWord, if_neg hlow, if_neg hhigh]
  case same => rw [Memory.word_setWord, if_pos rfl]
  case words => rw [Memory.word_setWord, if_neg hk]

/-- Settles O33. -/
theorem windowSparesMemory : Obligations.WindowSparesMemory := by
  unfold Obligations.WindowSparesMemory
  rintro s x y i h (rfl | rfl)
  · have hkeeps := memWrite_window_keeps s.advance (s.reg y) h
    refine ⟨_, exec_stor s x y, ?_⟩
    rw [hkeeps]
    exact ⟨fun _ => rfl, rfl, rfl, rfl, rfl, rfl, fun q _ => State.reg_congr rfl q⟩
  · have hkeeps := memRead_keeps s.advance (s.reg x)
    refine ⟨_, exec_load s y x, ?_⟩
    rw [hkeeps]
    refine ⟨fun _ => rfl, rfl, rfl, rfl, rfl, rfl, fun q hq => ?_⟩
    rw [State.reg_setReg_other _ _ _ _ (hq.resolve_left nofun)]
    exact State.reg_congr rfl q

/-- Settles O34. -/
theorem loadsAndStoresMeet : Obligations.LoadsAndStoresMeet := by
  unfold Obligations.LoadsAndStoresMeet
  intro s x y z d
  refine ⟨fun hx => ?store, fun hx hy => ?twice, runAll_stor_load y⟩
  case store =>
    refine ⟨_, exec_stor_below y (by rw [hx]; decide), ?_⟩
    rw [hx]
    exact Memory.word_setWord _ _ _ _
  case twice =>
    have hloadx := exec_load_below (s := s) d (x := x) (by rw [hx]; decide)
    have hloady := exec_load_below (s := s) d (x := y) (by rw [hy]; decide)
    rw [hx] at hloadx
    rw [hy] at hloady
    exact ⟨hloadx.trans hloady.symm, hloadx⟩

end Sys2Proof.Proofs
end

section
/-! The ports of Tabela 3 (61_io_devices.md R301 to R340): what a LOAD reads there and what a STOR does to its device,
and the accesses that the table does not describe. -/

namespace Sys2Proof.Proofs.Ports
open Machine Claims Successor Transfer Mask Constants

/-! ### Reads -/

/-- A read of Tabela 3 without a side effect gives its value and leaves the state. -/
theorem memRead_quiet {s : State} {a v : Word} (h : (a, v) ∈ quietReads s) : s.memRead a = (v, s) := by
  have hcount : BitVec.ofNat 16 (s.dev.timer.elapsed % 65536) = BitVec.ofNat 16 s.dev.timer.elapsed := by
    apply BitVec.eq_of_toNat_eq
    simp
  have hswitches : BitVec.ofNat 16 s.dev.sw.toNat = s.dev.sw.setWidth 16 := BitVec.ofNat_toNat ..
  simp only [quietReads, hswitches, hcount, List.mem_cons, List.not_mem_nil, or_false, Prod.mk.injEq] at h
  rcases h with ⟨rfl, rfl⟩ | ⟨rfl, rfl⟩ | ⟨rfl, rfl⟩ | ⟨rfl, rfl⟩ | ⟨rfl, rfl⟩ | ⟨rfl, rfl⟩ | ⟨rfl, rfl⟩ | ⟨rfl, rfl⟩
  all_goals rfl

theorem exec_load_quiet {s : State} (d : Reg) {x : Reg} {v : Word} (h : (s.reg x, v) ∈ quietReads s) :
    exec (.load d x) s = .next (writes s d v s.re) := by
  rw [exec_load, memRead_quiet (s := s.advance) h, advance_setReg]

/-- The read of the last key clears the key flag. -/
theorem memRead_lastKey (s : State) :
    s.memRead 0xFFFF =
      (s.dev.term.lastKey, s.setDev { s.dev with term := { s.dev.term with keyFlag := false } }) := rfl

/-- The state after a LOAD from the port of the last key. -/
def keyTaken (s : State) (d : Reg) (k : Word) : State :=
  { s with
    regs := s.regs.set d k
    pc := nextPc s
    ds := none
    dev := { s.dev with term := { s.dev.term with keyFlag := false } } }

theorem exec_load_lastKey {s : State} (d : Reg) {x : Reg} (hx : s.reg x = 0xFFFF) :
    exec (.load d x) s = .next (keyTaken s d s.dev.term.lastKey) := by
  rw [exec_load, hx, memRead_lastKey, advance_eq]
  rfl

theorem keyTaken_reg_other (s : State) {d q : Reg} (k : Word) (hq : q ≠ d) : (keyTaken s d k).reg q = s.reg q :=
  State.reg_setReg_other s d q k hq

theorem keyTaken_reg_same (s : State) {d : Reg} (k : Word) (hd : d ≠ .r0) : (keyTaken s d k).reg d = k :=
  State.reg_setReg_same s d k hd

/-! ### Writes -/

/-- A STOR to a port changes the device of the port alone. -/
theorem exec_stor_port {s : State} {x : Reg} {a : Word} {p : Port} (y : Reg) (hx : s.reg x = a)
    (hw : inWindow a = true) (hp : portAt a = p) (hmask : p ≠ .mask) :
    exec (.stor x y) s = .next { s with dev := s.dev.write p (s.reg y), pc := nextPc s, ds := none } := by
  rcases s.advance.memWrite_cases a (s.reg y) with ⟨hno, -⟩ | ⟨-, hm, -⟩ | ⟨-, -, hwrite⟩
  · exact absurd (hw.symm.trans hno) nofun
  · exact absurd (hp.symm.trans hm) hmask
  · rw [exec_stor, hx, hwrite, hp, advance_eq]
    rfl

/-! ### The cursor port -/

theorem setCursor_eq (t : Terminal) (v : Word) :
    t.setCursor v = if v.toNat / 256 ≤ 44 ∧ v.toNat % 256 ≤ 79 then
      { t with cursor := .at (v.toNat / 256) (v.toNat % 256) } else t.spoil := by
  simp only [Terminal.setCursor, high_toNat, low_toNat]

/-! ### Characters -/

theorem nextCell_terminal {row col : Nat} (hrow : row < 45) (hcol : col < 80) :
    nextCell 45 80 row col = ((80 * row + col + 1) % 3600 / 80, (80 * row + col + 1) % 3600 % 80) := by
  unfold nextCell
  split
  · split <;> (ext <;> dsimp only <;> omega)
  · ext <;> dsimp only <;> omega

theorem nextCell_lcd {line col : Nat} (hline : line < 2) (hcol : col < 16) :
    nextCell 2 16 line col = ((16 * line + col + 1) % 32 / 16, (16 * line + col + 1) % 32 % 16) := by
  unfold nextCell
  split
  · split <;> (ext <;> dsimp only <;> omega)
  · ext <;> dsimp only <;> omega

theorem putChar_at {t : Terminal} {row col : Nat} (code : Byte) (h : t.cursor = .at row col) :
    t.putChar code =
      { t with
        cells := sparseWrite t.cells (80 * row + col) { char := code, fg := t.fg, bg := t.bg }
        cursor := .at (nextCell 45 80 row col).1 (nextCell 45 80 row col).2 } := by
  rw [Terminal.putChar, h]

/-- What the terminal shows where a cell was written. -/
theorem cell_of_some {t : Terminal} {k : Nat} {c : TermCell} (h : sparseRead t.cells k = some c) :
    t.cell k = some c := by
  rw [Terminal.cell, h]

/-- The content of a cell is told by what is written there and by what the unwritten cells hold. -/
theorem cell_congr {t u : Terminal} {k : Nat} (hcells : sparseRead t.cells k = sparseRead u.cells k)
    (hbase : t.base = u.base) : t.cell k = u.cell k := by
  rw [Terminal.cell, Terminal.cell, hcells, hbase]

theorem lcdLine_toNat (v : Word) : (v.extractLsb' 4 1).toNat = v.toNat / 16 % 2 := by
  rw [BitVec.extractLsb'_toNat, Nat.shiftRight_eq_div_pow]

theorem lcdColumn_toNat (v : Word) : (v.extractLsb' 0 4).toNat = v.toNat % 16 := by
  rw [BitVec.extractLsb'_toNat, Nat.shiftRight_zero]

/-! ### The ports marked for reading, and those marked for writing -/

/-- The addresses whose read Tabela 3 describes. -/
def describedReads : List Word :=
  [0xFFFF, 0xFFFD, 0xFFFA, 0xFFF9, 0xFFF7, 0xFFF6, 0xFFEB, 0xFFEC, 0xFFED]

/-- The addresses whose write Tabela 3 describes. -/
def describedWrites : List Word :=
  [0xFFFE, 0xFFFC, 0xFFFB, 0xFFFA, 0xFFF8, 0xFFF7, 0xFFF6, 0xFFF5, 0xFFF4, 0xFFF3, 0xFFF2, 0xFFF1, 0xFFF0, 0xFFEF,
    0xFFEE]

theorem not_mem_describedReads {a : Word} (h : undescribedRead a) : a ∉ describedReads := by
  intro hmem
  unfold undescribedRead at h
  simp only [describedReads, List.mem_cons, List.not_mem_nil, or_false] at hmem
  rcases hmem with rfl | rfl | rfl | rfl | rfl | rfl | rfl | rfl | rfl <;> exact absurd h (by decide)

theorem not_mem_describedWrites {a : Word} (h : undescribedWrite a) : a ∉ describedWrites := by
  intro hmem
  unfold undescribedWrite at h
  simp only [describedWrites, List.mem_cons, List.not_mem_nil, or_false] at hmem
  rcases hmem with rfl | rfl | rfl | rfl | rfl | rfl | rfl | rfl | rfl | rfl | rfl | rfl | rfl | rfl | rfl <;>
    exact absurd h (by decide)

theorem le_of_undescribedRead {a : Word} (h : undescribedRead a) : 0xFF00 ≤ a.toNat := by
  unfold undescribedRead at h
  rcases h with ⟨h, -⟩ | ⟨h, -⟩ | rfl | rfl | rfl | rfl
  · exact h
  · omega
  all_goals decide

theorem le_of_undescribedWrite {a : Word} (h : undescribedWrite a) : 0xFF00 ≤ a.toNat := by
  unfold undescribedWrite at h
  rcases h with ⟨h, -⟩ | rfl | rfl | rfl
  · exact h
  all_goals decide

/-- Whether Tabela 3 marks a port for reading. -/
def readable : Port → Bool
  | .termKey | .termStatus | .mask | .switches | .timerControl | .timerCount | .accX | .accY | .accZ => true
  | _ => false

theorem portRead_of_not_readable {s : State} {a : Word} (h : readable (portAt a) = false) :
    s.portRead a = (Config.portRead s.freeCount, s.bumpFree) := by
  unfold State.portRead
  generalize portAt a = p at h ⊢
  cases p with
  | termKey | termStatus | mask | switches | timerControl | timerCount | accX | accY | accZ => cases h
  | _ => rfl

theorem not_readable_of_not_mem {a : Word} (h : a ∉ describedReads) : readable (portAt a) = false := by
  simp only [describedReads, List.mem_cons, List.not_mem_nil, or_false, not_or] at h
  obtain ⟨hkey, hstatus, hmask, hswitches, hcontrol, hcount, hx, hy, hz⟩ := h
  simp only [portAt, hkey, hstatus, hmask, hswitches, hcontrol, hcount, hx, hy, hz, if_false, apply_ite readable]
  simp only [readable, ite_self]

/-- A read at any other address of the window takes a free value. -/
theorem portRead_free {a : Word} (h : a ∉ describedReads) (s : State) :
    s.portRead a = (Config.portRead s.freeCount, s.bumpFree) :=
  portRead_of_not_readable (not_readable_of_not_mem h)

/-- Whether Tabela 3 marks a port for writing. -/
def writable : Port → Bool
  | .termKey | .termStatus | .switches | .accX | .accY | .accZ | .undescribed => false
  | _ => true

theorem portWrite_of_not_writable {s : State} {a : Word} (v : Word) (h : writable (portAt a) = false) :
    s.portWrite a v = s := by
  unfold State.portWrite
  generalize portAt a = p at h ⊢
  cases p with
  | termKey | termStatus | switches | accX | accY | accZ | undescribed => rfl
  | _ => cases h

theorem not_writable_of_not_mem {a : Word} (h : a ∉ describedWrites) : writable (portAt a) = false := by
  simp only [describedWrites, List.mem_cons, List.not_mem_nil, or_false, not_or] at h
  obtain ⟨hchar, hcursor, hcolour, hmask, hled, hcontrol, hcount, hlcd, hlcd', h3, h2, h1, h0, h5, h4⟩ := h
  simp only [portAt, hchar, hcursor, hcolour, hmask, hled, hcontrol, hcount, hlcd, hlcd', h3, h2, h1, h0, h5, h4,
    if_false, apply_ite writable]
  simp only [writable, ite_self]

/-- A write at any other address of the window changes nothing. -/
theorem portWrite_nothing {a : Word} (h : a ∉ describedWrites) (s : State) (v : Word) : s.portWrite a v = s :=
  portWrite_of_not_writable v (not_writable_of_not_mem h)

end Sys2Proof.Proofs.Ports

namespace Sys2Proof.Proofs
open Machine Claims Successor Mask DataSpace Ports

/-- Settles O41. -/
theorem quietPortReads : Obligations.QuietPortReads := by
  unfold Obligations.QuietPortReads
  exact fun s d x v h => exec_load_quiet d h

/-- Settles O42: the first read clears the key flag and leaves the address, so that the second gives 0. -/
theorem lastKeyRead : Obligations.LastKeyRead := by
  unfold Obligations.LastKeyRead
  intro s d x hx
  refine ⟨exec_load_lastKey d hx, fun hdx hd => ?_⟩
  have hx' : (keyTaken s d s.dev.term.lastKey).reg x = 0xFFFF := by rw [keyTaken_reg_other _ _ hdx.symm, hx]
  exact ⟨_, runAll_pair (exec_load_lastKey d hx) (exec_load_lastKey d hx'), keyTaken_reg_same _ _ hd⟩

/-- Settles O44: each is the write of its port by `exec_stor_port`. -/
theorem outputPorts : Obligations.OutputPorts := by
  unfold Obligations.OutputPorts
  intro s x y v gives
  refine ⟨?led, ?control, ?duration, ?colour, ?d0, ?d1, ?d2, ?d3, ?d4, ?d5, ?lcd⟩
  case lcd =>
    intro hx
    rw [exec_stor_port y hx rfl rfl nofun, ← lcdLine_toNat, ← lcdColumn_toNat]
    rfl
  all_goals exact fun hx => exec_stor_port y hx rfl rfl nofun

/-- Settles O46. -/
theorem terminalCursorPort : Obligations.TerminalCursorPort := by
  unfold Obligations.TerminalCursorPort
  intro s x y hx row col
  have hstor := exec_stor_port (p := .termCursor) y hx rfl rfl nofun
  have hwrite : s.dev.write .termCursor (s.reg y) = { s.dev with term := s.dev.term.setCursor (s.reg y) } := rfl
  rw [hwrite, setCursor_eq] at hstor
  refine ⟨fun hin => ?inRange, fun hout => ?outOfRange⟩
  case inRange => rw [hstor, if_pos hin]
  case outOfRange =>
    rw [if_neg hout] at hstor
    exact ⟨_, hstor, nofun, rfl, nofun, rfl, rfl, rfl, rfl, rfl⟩

/-- Settles O45. -/
theorem terminalCharacter : Obligations.TerminalCharacter := by
  unfold Obligations.TerminalCharacter
  intro s x y row col hx hat hrow hcol
  refine ⟨s.dev.term.putChar ((s.reg y).extractLsb' 0 8), exec_stor_port y hx rfl rfl nofun, ?_⟩
  rw [putChar_at _ hat, nextCell_terminal hrow hcol]
  refine ⟨rfl, cell_of_some (sparseRead_write_same _ _ _), fun row' col' hrow' hcol' hne => ?other, rfl⟩
  case other =>
    refine cell_congr (sparseRead_write_other _ _ fun heq => hne ?_) rfl
    rw [Prod.mk.injEq]
    omega

/-- Settles O47. -/
theorem lcdCharacter : Obligations.LcdCharacter := by
  unfold Obligations.LcdCharacter
  intro s x y hx hline hcol here
  have hnext := nextCell_lcd hline hcol
  exact ⟨_, exec_stor_port y hx rfl rfl nofun, rfl, sparseRead_write_same _ _ _,
    fun k hk => sparseRead_write_other _ _ hk, congrArg Prod.fst hnext, congrArg Prod.snd hnext⟩

/-- Settles O48. -/
theorem undescribedPorts : Obligations.UndescribedPorts := by
  unfold Obligations.UndescribedPorts
  intro s x y
  refine ⟨fun h => ?read, fun h => ?write⟩
  case read =>
    rw [exec_load, State.memRead, inWindow_of_le (le_of_undescribedRead h), if_pos rfl,
      portRead_free (not_mem_describedReads h), advance_eq]
    rfl
  case write =>
    rw [exec_stor, State.memWrite, inWindow_of_le (le_of_undescribedWrite h), if_pos rfl,
      portWrite_nothing (not_mem_describedWrites h), advance_eq]

end Sys2Proof.Proofs
end

section
/-! The output-only devices are invisible (61_io_devices.md R340, R341): with what they hold forgotten, every host
event, every interrupt entry and every instruction does the same but for what they hold. -/

namespace Sys2Proof.Proofs.Invisible
open Machine Claims Stepping Events Mask

/-! ### Forgetting and the shared operations -/

theorem forget_forget (s : State) : forgetOutputs (forgetOutputs s) = forgetOutputs s := rfl

theorem goTo_forget (s : State) (slot : Bool) (a : Word) :
    (forgetOutputs s).goTo slot a = forgetOutputs (s.goTo slot a) := by cases slot <;> rfl

theorem raise_forget (s : State) (v : Nat) : (forgetOutputs s).raise v = forgetOutputs (s.raise v) := by
  refine (raise_setDev s _ v).trans ?_
  rw [forgetOutputs, raise_dev]
  rfl

/-- The ports that can be read are those of devices which are not forgotten. -/
theorem memRead_forget (s : State) (a : Word) :
    (forgetOutputs s).memRead a = ((s.memRead a).1, forgetOutputs (s.memRead a).2) := by
  unfold State.memRead
  split
  · unfold State.portRead
    cases portAt a <;> rfl
  · rfl

/-- Two terminals have the same keyboard. -/
def SameKeyboard (t u : Terminal) : Prop := t.key = u.key ∧ t.keyFlag = u.keyFlag

theorem SameKeyboard.symm {t u : Terminal} (h : SameKeyboard t u) : SameKeyboard u t := ⟨h.1.symm, h.2.symm⟩

theorem SameKeyboard.trans {t u v : Terminal} (h : SameKeyboard t u) (h' : SameKeyboard u v) : SameKeyboard t v :=
  ⟨h.1.trans h'.1, h.2.trans h'.2⟩

theorem putChar_keyboard (t : Terminal) (code : Byte) : SameKeyboard (t.putChar code) t := by
  unfold Terminal.putChar
  split <;> exact ⟨rfl, rfl⟩

theorem setCursor_keyboard (t : Terminal) (v : Word) : SameKeyboard (t.setCursor v) t := by
  simp only [Terminal.setCursor]
  split <;> exact ⟨rfl, rfl⟩

/-- The keyboard is all that is not forgotten of a terminal. -/
theorem forget_setTerm {s : State} {t u : Terminal} (h : SameKeyboard t u) :
    forgetOutputs (s.setDev { s.dev with term := t }) = forgetOutputs (s.setDev { s.dev with term := u }) := by
  obtain ⟨hkey, hflag⟩ := h
  simp only [forgetOutputs, State.setDev_dev, hkey, hflag]
  rfl

theorem portWrite_forget (s : State) (a v : Word) :
    forgetOutputs ((forgetOutputs s).portWrite a v) = forgetOutputs (s.portWrite a v) := by
  unfold State.portWrite
  cases portAt a with
  | termWrite =>
    have hsame : SameKeyboard ((forgetOutputs s).dev.term.putChar (v.extractLsb' 0 8))
        (s.dev.term.putChar (v.extractLsb' 0 8)) :=
      (putChar_keyboard _ _).trans (putChar_keyboard s.dev.term _).symm
    exact forget_setTerm (s := s) hsame
  | termCursor =>
    have hsame : SameKeyboard ((forgetOutputs s).dev.term.setCursor v) (s.dev.term.setCursor v) :=
      (setCursor_keyboard _ _).trans (setCursor_keyboard s.dev.term _).symm
    exact forget_setTerm (s := s) hsame
  | _ => rfl

theorem memWrite_forget (s : State) (a v : Word) :
    forgetOutputs ((forgetOutputs s).memWrite a v) = forgetOutputs (s.memWrite a v) := by
  unfold State.memWrite
  split
  · exact portWrite_forget s a v
  · rfl

/-! ### Host events and entries -/

theorem applyEvent_forget (s : State) (e : HostEvent) :
    (forgetOutputs s).applyEvent e = forgetOutputs (s.applyEvent e) := by
  cases e with
  | button b => exact raise_forget s b.vector
  | key code =>
    exact raise_forget (s.setDev { s.dev with term := { s.dev.term with key := code, keyFlag := true } }) keyboardVector
  | tick =>
    rw [State.applyEvent, State.applyEvent, timerTick_eq, timerTick_eq, raise_forget]
    rfl
  | switch i up | accel x y z | reset => rfl

theorem foldl_applyEvent_forget (events : List HostEvent) (s : State) :
    events.foldl State.applyEvent (forgetOutputs s) = forgetOutputs (events.foldl State.applyEvent s) := by
  induction events generalizing s with
  | nil => rfl
  | cons e events ih => rw [List.foldl_cons, applyEvent_forget, ih, List.foldl_cons]

theorem deliver_forget (s : State) : (forgetOutputs s).deliver = forgetOutputs s.deliver := by
  cases hin : s.inputs with
  | nil => rw [State.deliver_nil hin, State.deliver_nil (s := forgetOutputs s) hin]
  | cons events later =>
    rw [deliver_cons hin, deliver_cons (s := forgetOutputs s) hin]
    exact foldl_applyEvent_forget events { s with inputs := later }

/-- Acceptance looks at ds, RE, IM and IP alone. -/
theorem accepted_forget (s : State) : (forgetOutputs s).accepted = s.accepted := rfl

/-! ### The instructions -/

/-- The second outcome is the first but for what the output-only devices hold. -/
def SameButOutputs (o o' : Host.Outcome State Fault Refusal) : Prop :=
  (∀ t, o = .next t → ∃ u, o' = .next u ∧ forgetOutputs u = forgetOutputs t) ∧ ∀ r, o = .refused r → o' = .refused r

theorem SameButOutputs.of_next {t u : State} (h : forgetOutputs u = forgetOutputs t) :
    SameButOutputs (.next t) (.next u) := by
  refine ⟨fun t' ht => ⟨u, rfl, ?_⟩, fun _ hr => by cases hr⟩
  obtain rfl := Host.Outcome.next.inj ht
  exact h

theorem SameButOutputs.of_refused (r : Refusal) : SameButOutputs (.refused r) (.refused r) :=
  ⟨fun _ h => (by cases h), fun _ h => h⟩

theorem control_forget {s : State} {k k' : State → State}
    (h : forgetOutputs (k' (forgetOutputs s.advance)) = forgetOutputs (k s.advance)) :
    SameButOutputs (s.control k) ((forgetOutputs s).control k') := by
  by_cases hds : s.ds = none
  · rw [State.control_of_none k hds, State.control_of_none (s := forgetOutputs s) k' hds]
    exact .of_next h
  · rw [State.control_of_some k hds, State.control_of_some (s := forgetOutputs s) k' hds]
    exact .of_refused _

/-- A jump on a condition, and what it does before it sends control to its target. -/
theorem jump_forget (s : State) (taken slot : Bool) (a : Word) (first : State → State)
    (hfirst : ∀ u, first (forgetOutputs u) = forgetOutputs (first u)) :
    SameButOutputs (s.control fun s' => if taken then (first s').goTo slot a else s')
      ((forgetOutputs s).control fun s' => if taken then (first s').goTo slot a else s') := by
  refine control_forget ?_
  cases taken with
  | false => rfl
  | true =>
    rw [if_pos rfl, if_pos rfl, hfirst, goTo_forget]
    exact forget_forget _

section
variable (s : State) (k : Cond)

theorem branchIf_forget (d : BitVec 8) : SameButOutputs (s.branchIf k d) ((forgetOutputs s).branchIf k d) :=
  jump_forget s (condHolds k s.re) (s.hasSlot .brCond) (s.relTarget d) id fun _ => rfl

theorem jumpIf_forget (r : Reg) : SameButOutputs (s.jumpIf k r) ((forgetOutputs s).jumpIf k r) := by
  have hreg : (forgetOutputs s).reg r = s.reg r := State.reg_congr rfl r
  rw [State.jumpIf, State.jumpIf, hreg]
  exact jump_forget s (condHolds k s.re) (s.hasSlot .jmpCond) (s.reg r) id fun _ => rfl

theorem callIf_forget (r : Reg) : SameButOutputs (s.callIf k r) ((forgetOutputs s).callIf k r) := by
  have hreg : (forgetOutputs s).reg r = s.reg r := State.reg_congr rfl r
  rw [State.callIf, State.callIf, hreg]
  exact jump_forget s (condHolds k s.re) (s.hasSlot .jalCond) (s.reg r) (·.setReg .r7 s.link) fun _ => rfl

end

theorem exec_forget (i : Instr) (s : State) : SameButOutputs (exec i s) (exec i (forgetOutputs s)) := by
  cases i with
  | nop | eni | dsi | stc | clc | cmc
  | add | addc | sub | subb | neg | inc | dec | cmp
  | and | or | xor | com | test
  | shr | shl | shra | shla | ror | rol | rorc | rolc
  | mov | mvi | mvih | mvil => exact .of_next rfl
  | load d x =>
    have hread : (forgetOutputs s).advance.memRead ((forgetOutputs s).reg x) = _ := memRead_forget s.advance (s.reg x)
    rw [exec_load, exec_load, hread]
    exact .of_next rfl
  | stor x y => exact .of_next (memWrite_forget s.advance (s.reg x) (s.reg y))
  | br d => exact jump_forget s true (s.hasSlot .br) (s.relTarget d) id fun _ => rfl
  | jmp r => exact jump_forget s true (s.hasSlot .jmp) (s.reg r) id fun _ => rfl
  | jal r => exact jump_forget s true (s.hasSlot .jal) (s.reg r) (·.setReg .r7 s.link) fun _ => rfl
  | rti => exact jump_forget s true (s.hasSlot .rti) s.pcE (·.setRe s.reE) fun _ => rfl
  | int k =>
    exact jump_forget s true (s.hasSlot .int) (intBase + k.setWidth 16) (fun u => u.saveContext u.pc) fun _ => rfl
  | brZ d | brNZ d | brN d | brNN d | brP d | brNP d | brC d | brNC d | brO d | brNO d => exact branchIf_forget s _ d
  | jmpZ r | jmpNZ r | jmpN r | jmpNN r | jmpP r | jmpNP r | jmpC r | jmpNC r | jmpO r | jmpNO r =>
    exact jumpIf_forget s _ r
  | jalZ r | jalNZ r | jalN r | jalNN r | jalP r | jalNP r | jalC r | jalNC r | jalO r | jalNO r =>
    exact callIf_forget s _ r

/-! ### The step -/

theorem runInstruction_forget (s : State) :
    SameButOutputs s.runInstruction (forgetOutputs s).runInstruction := by
  cases hw : s.fetchWord with
  | none =>
    rw [runInstruction_of_unloaded hw, runInstruction_of_unloaded (s := forgetOutputs s) hw]
    exact .of_refused _
  | some w =>
    cases hd : decodeBy s.params.encoding w with
    | error why =>
      rw [runInstruction_of_reserved hw hd, runInstruction_of_reserved (s := forgetOutputs s) hw hd]
      exact .of_refused _
    | ok i =>
      rw [runInstruction_of_decoded hw hd, runInstruction_of_decoded (s := forgetOutputs s) hw hd]
      exact exec_forget i s

theorem step_forget (s : State) : SameButOutputs (step s) (step (forgetOutputs s)) := by
  cases ha : s.deliver.accepted with
  | some v =>
    have ha' : (forgetOutputs s).deliver.accepted = some v := by rw [deliver_forget, accepted_forget, ha]
    rw [step_of_accepted ha, step_of_accepted ha', deliver_forget]
    exact .of_next rfl
  | none =>
    have ha' : (forgetOutputs s).deliver.accepted = none := by rw [deliver_forget, accepted_forget, ha]
    rw [step_of_unaccepted ha, step_of_unaccepted ha', deliver_forget]
    exact runInstruction_forget s.deliver

end Sys2Proof.Proofs.Invisible

namespace Sys2Proof.Proofs
open Machine Claims Invisible

/-- Settles O49. -/
theorem outputsInvisible : Obligations.OutputsInvisible := by
  unfold Obligations.OutputsInvisible
  exact step_forget

end Sys2Proof.Proofs
end
